-- ==== Sys2Proof/Word.lean ====
section
/-! DEFINITION. The word types of the VS23S010 video block (spec/00_scope.md R7, R9): bytes on the serial link,
16-bit and 32-bit register values. Every value is unsigned (R9, R130). -/

namespace Sys2Proof

/-- A byte of SRAM or of a frame (R7, R120). -/
abbrev Byte := BitVec 8

/-- A 16-bit value: a register value, a protoline word, a word address (R7, R81). -/
abbrev Half := BitVec 16

/-- A 32-bit register value: `INDEXSTART`, `PROGRAM`, `BMC2` (R123). -/
abbrev Word := BitVec 32

end Sys2Proof
end

