-- ==== Sys2Proof/Config.lean ====
section
/-! DEFINITION. What an instance of the block fixes (`Cfg`, spec/00_scope.md R6; `OPMAP`, spec/30_encoding.md R127)
and the free values: the draws of spec/41_chip_commands.md R193 and the engine's open timing
(spec/46_blitter.md R410, R438). The reference values stand in Machine/Reference.lean. -/

namespace Sys2Proof

/-- `STD`, the display standard (R5). NTSC is EXPERIMENTAL. -/
inductive Standard where
  | pal
  | ntsc
  deriving DecidableEq, Repr

/-- The chip commands of `OPMAP` (R127), in the order of spec/opcode_table.json. -/
inductive Cmd where
  | multiic | wrsr | write | read | picstart | picend | linelen | vdctrl1
  | indexstart | vdctrl2 | program | bmc1 | bmc2 | bmstart | bmstatus
  deriving DecidableEq, Repr

/-- `OPMAP`: the opcode byte of each chip command (R127). A record with one byte a command, so it maps every
command by its type; that it is injective is condition 14 of R266. -/
structure OpMap where
  multiic    : Byte
  wrsr       : Byte
  write      : Byte
  read       : Byte
  picstart   : Byte
  picend     : Byte
  linelen    : Byte
  vdctrl1    : Byte
  indexstart : Byte
  vdctrl2    : Byte
  program    : Byte
  bmc1       : Byte
  bmc2       : Byte
  bmstart    : Byte
  bmstatus   : Byte
  deriving DecidableEq, Repr

/-- The configuration record `Cfg` of R6: one field for each row of its table. The crystal frequency, a positive
rational, is the fraction `xtalNum / xtalDen` (log entry 16). A level, word or flag is a number, so that
condition 12 of R266 has something to check. -/
structure Cfg where
  /-- `STD` -/
  std : Standard
  /-- `XTAL_HZ`, numerator in Hz -/
  xtalNum : Nat
  /-- `XTAL_HZ`, denominator -/
  xtalDen : Nat
  /-- `PLL_MULT` -/
  pllMult : Nat
  /-- `WIDTH` -/
  width : Nat
  /-- `HEIGHT` -/
  height : Nat
  /-- `TOTAL_LINES` -/
  totalLines : Nat
  /-- `T_LINE_NS` -/
  tLine : Nat
  /-- `T_SYNC_NS` -/
  tSync : Nat
  /-- `T_BURST_START_NS` -/
  tBurstStart : Nat
  /-- `T_BURST_LEN_NS` -/
  tBurstLen : Nat
  /-- `T_BLANK_END_NS` -/
  tBlankEnd : Nat
  /-- `T_FRONT_NS` -/
  tFront : Nat
  /-- `T_SHORT_NS` -/
  tShort : Nat
  /-- `T_LONG_NS` -/
  tLong : Nat
  /-- `SYNC_LEVEL` -/
  syncLevel : Nat
  /-- `BLANK_LEVEL` -/
  blankLevel : Nat
  /-- `BLACK_LEVEL` -/
  blackLevel : Nat
  /-- `BURST_LEVEL` -/
  burstLevel : Nat
  /-- `NUM_PROTOLINES` -/
  numProtolines : Nat
  /-- `PICLINE_GUARD` -/
  guard : Nat
  /-- `FRAME_TABLE`: (physical line, protoline), in table order -/
  frameTable : List (Nat × Nat)
  /-- `PROGRAM_WORD` -/
  programWord : Nat
  /-- `LPF_ENABLE` -/
  lpfEnable : Nat
  /-- `MULTIIC_OFF` -/
  multiicOff : Nat
  /-- `OPMAP` -/
  opmap : OpMap
  /-- `BM_MIN_WIDTH` -/
  bmMinWidth : Nat
  /-- `BM_MAX_WIDTH` -/
  bmMaxWidth : Nat
  /-- `BUSY_POLL_LIMIT` -/
  busyPollLimit : Option Nat
  /-- `ENGINE_POLL_BOUND` -/
  enginePollBound : Option Nat
  deriving DecidableEq, Repr

/-- The draws: an unspecified response byte, the status word's bits [14:0], the data of a faulting read
(R48, R131, R193, R206). The `n`-th draw of a run is `freeByte n`; no body, so nothing can be proved of its value
(log entry 5). -/
opaque Config.freeByte : Nat → Byte

/-- The open timing of the engine (R410, R438): how many frame boundaries the `n`-th started move stays busy. Every
finite number is allowed and no infinite one, which is R410's fairness; no body (log entry 6). -/
opaque Config.engineDelay : Nat → Nat

end Sys2Proof
end

