-- ==== Sys2Proof/Machine/Reference.lean ====
section
/-! DEFINITION. The reference configurations of spec/00_scope.md R6 and the reference `OPMAP` of
spec/30_encoding.md R127. Each value is the spec's own reference value; NTSC is EXPERIMENTAL (R5). -/

namespace Sys2Proof

/-- The opcode byte `OPMAP` gives a command (R127). -/
def OpMap.code (m : OpMap) : Cmd → Byte
  | .multiic => m.multiic
  | .wrsr => m.wrsr
  | .write => m.write
  | .read => m.read
  | .picstart => m.picstart
  | .picend => m.picend
  | .linelen => m.linelen
  | .vdctrl1 => m.vdctrl1
  | .indexstart => m.indexstart
  | .vdctrl2 => m.vdctrl2
  | .program => m.program
  | .bmc1 => m.bmc1
  | .bmc2 => m.bmc2
  | .bmstart => m.bmstart
  | .bmstatus => m.bmstatus

/-- Every chip command, in the order of spec/opcode_table.json. -/
def Cmd.all : List Cmd :=
  [.multiic, .wrsr, .write, .read, .picstart, .picend, .linelen, .vdctrl1,
   .indexstart, .vdctrl2, .program, .bmc1, .bmc2, .bmstart, .bmstatus]

/-- `OPMAP` is injective: no two commands share an opcode (R127; condition 14 of R266). -/
def OpMap.injective (m : OpMap) : Bool := decide (Cmd.all.map m.code).Nodup

/-- The reference `OPMAP` of R127. -/
def OpMap.reference : OpMap where
  multiic := 0xB8
  wrsr := 0x01
  write := 0x02
  read := 0x03
  picstart := 0x28
  picend := 0x29
  linelen := 0x2A
  vdctrl1 := 0x2B
  indexstart := 0x2C
  vdctrl2 := 0x2D
  program := 0x30
  bmc1 := 0x34
  bmc2 := 0x35
  bmstart := 0x36
  bmstatus := 0x53

/-- The PAL reference configuration of R6, with the PAL frame table of R390. -/
def Cfg.pal : Cfg where
  std := .pal
  xtalNum := 17734475
  xtalDen := 4
  pllMult := 8
  width := 320
  height := 240
  totalLines := 313
  tLine := 64000
  tSync := 4700
  tBurstStart := 5600
  tBurstLen := 2250
  tBlankEnd := 10500
  tFront := 1650
  tShort := 2350
  tLong := 27300
  syncLevel := 0x0000
  blankLevel := 0x0066
  blackLevel := 0x0066
  burstLevel := 0x0D66
  numProtolines := 4
  guard := 2
  frameTable := [(0, 2), (1, 2), (2, 3), (3, 1), (4, 1), (310, 1), (311, 1), (312, 1)]
  programWord := 0x0346458C
  lpfEnable := 1
  multiicOff := 0x0F
  opmap := OpMap.reference
  bmMinWidth := 4
  bmMaxWidth := 250
  busyPollLimit := some 65536
  enginePollBound := none

/-- The NTSC reference configuration of R6 (EXPERIMENTAL), with the NTSC frame table of R390. -/
def Cfg.ntsc : Cfg :=
  { Cfg.pal with
    std := .ntsc
    xtalNum := 3579545
    xtalDen := 1
    totalLines := 262
    tLine := 63556
    tBurstStart := 5300
    tBurstLen := 2500
    tBlankEnd := 9400
    tFront := 1500
    tShort := 2300
    tLong := 27100
    blackLevel := 0x0076
    frameTable := [(0, 1), (1, 1), (2, 1), (3, 2), (4, 2), (5, 2), (6, 1), (7, 1), (8, 1), (9, 1)] }

end Sys2Proof
end

