-- ==== Sys2Proof/Machine/Geometry.lean ====
section
/-! DEFINITION. The geometry and timing arithmetic (spec/42_geometry.md R250–R266) and the memory layout
(spec/43_layout_index.md R290–R297): pure functions of the configuration, on unbounded integers (R252). A difference
that R266 does not allow is cut off at 0 here; a condition of R266 is then false (R265). -/

namespace Sys2Proof

/-! ## Horizontal and vertical timing -/

/-- `clocks(t)` of R251: `t` ns in clocks, rounded half up, exactly. `PLL_HZ = XTAL_HZ × PLL_MULT` (R250) is the
fraction `xtalNum · pllMult / xtalDen`. -/
def Cfg.clocks (c : Cfg) (t : Nat) : Nat :=
  (t * (c.xtalNum * c.pllMult) + 500000000 * c.xtalDen) / (1000000000 * c.xtalDen)

/-- `LINE_LEN` (R253) -/
def Cfg.lineLen (c : Cfg) : Nat := c.clocks c.tLine

/-- `HALF_LINE` (R253) -/
def Cfg.halfLine (c : Cfg) : Nat := c.lineLen / 2

/-- `SYNC_CLKS` (R254) -/
def Cfg.syncClks (c : Cfg) : Nat := c.clocks c.tSync

/-- `BURST_START` (R255) -/
def Cfg.burstStart (c : Cfg) : Nat := c.clocks c.tBurstStart

/-- `BURST_END` (R255) -/
def Cfg.burstEnd (c : Cfg) : Nat := c.clocks (c.tBurstStart + c.tBurstLen)

/-- `BURST_LEN` (R255) -/
def Cfg.burstLen (c : Cfg) : Nat := c.burstEnd - c.burstStart

/-- `BLANK_END` (R256) -/
def Cfg.blankEnd (c : Cfg) : Nat := c.clocks c.tBlankEnd

/-- `ACTIVE_END` (R256) -/
def Cfg.activeEnd (c : Cfg) : Nat := c.lineLen - c.clocks c.tFront

/-- `ACTIVE_CLKS` (R256) -/
def Cfg.activeClks (c : Cfg) : Nat := c.activeEnd - c.blankEnd

/-- `PIXEL_CLKS`, the pixel-clock divider (R257) -/
def Cfg.pixelClks (c : Cfg) : Nat := c.activeClks / c.width

/-- `PIC_START` (R258) -/
def Cfg.picStart (c : Cfg) : Nat := c.blankEnd + (c.activeClks - c.width * c.pixelClks) / 2

/-- `PIC_END` (R258) -/
def Cfg.picEnd (c : Cfg) : Nat := c.picStart + c.width * c.pixelClks

/-- `SHORT_CLKS` (R259) -/
def Cfg.shortClks (c : Cfg) : Nat := c.clocks c.tShort

/-- `LONG_CLKS` (R259) -/
def Cfg.longClks (c : Cfg) : Nat := c.clocks c.tLong

/-- `VSYNC_LINES` (R260) -/
def Cfg.vsyncLines (c : Cfg) : Nat := c.frameTable.length

/-- `FIRST_PIC_LINE` (R260) -/
def Cfg.firstPicLine (c : Cfg) : Nat := (c.totalLines - c.height) / 2

/-! ## Memory layout -/

/-- `PROTO_WORD(n)`, a word address (R290) -/
def Cfg.protoWord (c : Cfg) (n : Nat) : Nat := n * c.lineLen

/-- `PROTO_BYTE(n)`, a byte address (R290) -/
def Cfg.protoByte (c : Cfg) (n : Nat) : Nat := 2 * n * c.lineLen

/-- `INDEX_START` (R291) -/
def Cfg.indexStart (c : Cfg) : Nat := 2 * c.numProtolines * c.lineLen

/-- The first byte of the index entry of a physical line (R291). -/
def Cfg.entryAddr (c : Cfg) (line : Nat) : Nat := c.indexStart + 3 * line

/-- `INDEX_END` (R292) -/
def Cfg.indexEnd (c : Cfg) : Nat := c.indexStart + 3 * c.totalLines

/-- `PICTURE_START`, the first even address at or after the table's end (R292) -/
def Cfg.pictureStart (c : Cfg) : Nat := c.indexEnd + c.indexEnd % 2

/-- `PITCH` (R293) -/
def Cfg.pitch (c : Cfg) : Nat := c.width + c.guard

/-- `ROW(r)` (R294) -/
def Cfg.row (c : Cfg) (r : Nat) : Nat := c.pictureStart + r * c.pitch

/-- `PIX(x, y)` (R295) -/
def Cfg.pix (c : Cfg) (x y : Nat) : Nat := c.row y + x

/-- `GLYPH_START` (R297) -/
def Cfg.glyphStart (c : Cfg) : Nat := c.pictureStart + c.height * c.pitch

/-! ## Register values (R261) -/

/-- The value of `VDCTRL1`: `PLL_EN = 1`, `PLL_SEL = 1`. -/
def Cfg.vdctrl1Value : Half := 0x3000

/-- The value of `VDCTRL2`: `0x8000 | (PAL ? 0x4000 : 0) | PIXEL_CLKS << 10 | TOTAL_LINES`. -/
def Cfg.vdctrl2Value (c : Cfg) : Half :=
  BitVec.ofNat 16 (0x8000 ||| (if c.std = .pal then 0x4000 else 0) ||| (c.pixelClks <<< 10) ||| c.totalLines)

/-! ## Validation (R264–R266) -/

/-- How many protolines `INIT` builds (R266 condition 8, R389): 0 to 3 for PAL, 0 to 2 for NTSC. -/
def Cfg.builtProtolines (c : Cfg) : Nat :=
  match c.std with
  | .pal => 4
  | .ntsc => 3

/-- Condition 1: the clock and the durations are positive (`STD` is one of the two by its type). -/
def Cfg.clockOk (c : Cfg) : Bool :=
  decide (0 < c.xtalNum ∧ 0 < c.xtalDen ∧ 1 ≤ c.pllMult ∧ 0 < c.tLine ∧ 0 < c.tSync ∧ 0 < c.tBurstStart ∧
    0 < c.tBurstLen ∧ 0 < c.tBlankEnd ∧ 0 < c.tFront ∧ 0 < c.tShort ∧ 0 < c.tLong)

/-- Condition 2. -/
def Cfg.sizeOk (c : Cfg) : Bool := decide (1 ≤ c.width ∧ 1 ≤ c.height ∧ c.height ≤ c.totalLines)

/-- Condition 3: the line count fits `VDCTRL2.LINECOUNT`. -/
def Cfg.linesOk (c : Cfg) : Bool := decide (1 ≤ c.totalLines ∧ c.totalLines ≤ 1023)

/-- Condition 4: the line length fits `LINELEN.LEN`. -/
def Cfg.lineLenOk (c : Cfg) : Bool := decide (c.lineLen ≤ 4095)

/-- Condition 5: the pulse order. -/
def Cfg.pulsesOk (c : Cfg) : Bool :=
  decide (1 ≤ c.syncClks ∧ c.syncClks < c.burstStart ∧ c.burstStart < c.burstEnd ∧ c.burstEnd ≤ c.blankEnd ∧
    c.blankEnd < c.activeEnd ∧ c.activeEnd ≤ c.lineLen)

/-- Condition 6: the divider fits `VDCTRL2.PIXCLKS` and is not 0. -/
def Cfg.pixelClksOk (c : Cfg) : Bool := decide (1 ≤ c.pixelClks ∧ c.pixelClks ≤ 15)

/-- Condition 7: the vertical-sync pulses. -/
def Cfg.vsyncOk (c : Cfg) : Bool :=
  decide (1 ≤ c.shortClks ∧ c.shortClks ≤ c.halfLine ∧ 1 ≤ c.longClks ∧ c.longClks ≤ c.halfLine ∧
    c.halfLine + c.longClks ≤ c.lineLen)

/-- Condition 8: the protolines. -/
def Cfg.protolinesOk (c : Cfg) : Bool :=
  decide (c.numProtolines ≤ 16 ∧ c.builtProtolines ≤ c.numProtolines ∧ c.numProtolines * c.lineLen ≤ 65536)

/-- Condition 9: the frame table. -/
def Cfg.frameTableOk (c : Cfg) : Bool :=
  (c.frameTable.all fun e =>
    decide (e.1 < c.totalLines ∧ 1 ≤ e.2 ∧ e.2 < c.builtProtolines ∧
      ¬(c.firstPicLine ≤ e.1 ∧ e.1 < c.firstPicLine + c.height))) &&
  decide (c.frameTable.map Prod.fst).Nodup

/-- Condition 10: the layout fits the SRAM. -/
def Cfg.memoryOk (c : Cfg) : Bool := decide (c.glyphStart ≤ 131072)

/-- Condition 11: a row stride fits `BMC2.STRIDE`. -/
def Cfg.pitchOk (c : Cfg) : Bool := decide (c.pitch ≤ 65535)

/-- Condition 12: levels and words fit their fields. -/
def Cfg.levelsOk (c : Cfg) : Bool :=
  decide (c.syncLevel < 65536 ∧ c.blankLevel < 65536 ∧ c.blackLevel < 65536 ∧ c.burstLevel < 65536 ∧
    c.programWord < 4294967296 ∧ c.multiicOff < 256 ∧ c.lpfEnable ≤ 1)

/-- Condition 13: the block-move limits. -/
def Cfg.moveLimitsOk (c : Cfg) : Bool :=
  decide (1 ≤ c.bmMinWidth ∧ c.bmMinWidth ≤ c.bmMaxWidth ∧ c.bmMaxWidth ≤ 255 ∧ c.busyPollLimit ≠ some 0)

/-- `CfgValid` (R264): every condition of R266 holds; condition 14 is the last conjunct. -/
def Cfg.valid (c : Cfg) : Bool :=
  c.clockOk && c.sizeOk && c.linesOk && c.lineLenOk && c.pulsesOk && c.pixelClksOk && c.vsyncOk && c.protolinesOk &&
  c.frameTableOk && c.memoryOk && c.pitchOk && c.levelsOk && c.moveLimitsOk && c.opmap.injective

end Sys2Proof
end

