-- ==== Sys2Proof/Syntax.lean ====
section
/-! DEFINITION. The instructions: one constructor for each row of spec/opcode_table.json, the 15 chip commands
(frames, spec/30_encoding.md R122–R129) and the 16 host ops (calls, R133). -/

namespace Sys2Proof

/-- What the machine executes (R4): a chip command, with every bit its frame carries after the opcode, or a host op,
with its unsigned arguments (R133: an argument outside its type is for the op to report, so it is a number here). -/
inductive Instr where
  /-- `MULTIIC d` (R200) -/
  | multiic (d : Byte)
  /-- `WRSR d` (R201) -/
  | wrsr (d : Byte)
  /-- `WRITE a, x0 x1 …` (R205) -/
  | write (a : BitVec 24) (data : List Byte)
  /-- `READ a, k` (R206): `filler` is `b4 … b(n-1)`, as many bytes as are read; their values are ignored -/
  | read (a : BitVec 24) (filler : List Byte)
  /-- `PICSTART v` (R202) -/
  | picstart (v : Half)
  /-- `PICEND v` (R203) -/
  | picend (v : Half)
  /-- `LINELEN v` (R207) -/
  | linelen (v : Half)
  /-- `VDCTRL1 v` (R204) -/
  | vdctrl1 (v : Half)
  /-- `INDEXSTART v` (R209) -/
  | indexstart (v : Word)
  /-- `VDCTRL2 v` (R210) -/
  | vdctrl2 (v : Half)
  /-- `PROGRAM v` (R208) -/
  | program (v : Word)
  /-- `BMC1 sw, dw, f` (R211) -/
  | bmc1 (srcW dstW : Half) (flags : Byte)
  /-- `BMC2 stride, width, hm1` (R212, R128) -/
  | bmc2 (stride : Half) (width hm1 : Byte)
  /-- `BMSTART` (R213) -/
  | bmstart
  /-- `BMSTATUS` (R214): `f1`, `f2` are the filler bytes, whose values are ignored -/
  | bmstatus (f1 f2 : Byte)
  /-- `INIT()` (R380) -/
  | init
  /-- `PROTOLINE_ADDRESS(n)` (R298) -/
  | protolineAddress (n : Nat)
  /-- `PICTURE_LINE_ADDRESS(n)` (R299) -/
  | pictureLineAddress (n : Nat)
  /-- `PIXEL_ADDRESS(x, y)` (R300) -/
  | pixelAddress (x y : Nat)
  /-- `WRITE_INDEX_ENTRY(line, kind, value)` (R301) -/
  | writeIndexEntry (line kind value : Nat)
  /-- `FILL_PROTOLINE(n, offset, count, value)` (R302) -/
  | fillProtoline (n offset count value : Nat)
  /-- `SET_COLOR_BURST(enable)` (R353) -/
  | setColorBurst (enable : Nat)
  /-- `WRITE_PIXEL(x, y, color)` (R303) -/
  | writePixel (x y color : Nat)
  /-- `READ_PIXEL(x, y)` (R304) -/
  | readPixel (x y : Nat)
  /-- `WRITE_BYTE(a, d)` (R171) -/
  | writeByte (a d : Nat)
  /-- `WRITE_WORD(w, v)` (R172) -/
  | writeWord (w v : Nat)
  /-- `READ_BYTE(a)` (R173) -/
  | readByte (a : Nat)
  /-- `BLIT(src, dst, width, height, stride)` (R420) -/
  | blit (src dst width height stride : Nat)
  /-- `BLIT_SPLIT(src, dst, width, height, stride)` (R426) -/
  | blitSplit (src dst width height stride : Nat)
  /-- `WAIT_IDLE()` (R432) -/
  | waitIdle
  /-- `READ_STATUS()` (R170) -/
  | readStatus
  deriving DecidableEq, Repr

/-- An instruction as it reaches the machine: the bytes of one frame (R120), or a call of a host op by its code with
its arguments (R133). -/
inductive Request where
  | frame (bytes : List Byte)
  | call (code : Nat) (args : List Nat)
  deriving DecidableEq, Repr

end Sys2Proof
end

