-- ==== Sys2Proof/WellFormed.lean ====
section
/-! DEFINITION. Which instructions the encoding can express (spec/30_encoding.md R121, spec/41_chip_commands.md R191):
a `WRITE` or `READ` frame moves at least one byte. Every other field fills its bits, and every argument of a host op
is a number its call can carry (R133: a value out of range is the op's `E_RANGE`). -/

namespace Sys2Proof

/-- The instruction has an encoding: R191 allows a `WRITE` or `READ` frame only with `n ≥ 5`. -/
def Instr.wellFormed : Instr → Bool
  | .write _ data => !data.isEmpty
  | .read _ filler => !filler.isEmpty
  | .multiic _ | .wrsr _ | .picstart _ | .picend _ | .linelen _ | .vdctrl1 _ | .indexstart _ | .vdctrl2 _
  | .program _ | .bmc1 _ _ _ | .bmc2 _ _ _ | .bmstart | .bmstatus _ _
  | .init | .protolineAddress _ | .pictureLineAddress _ | .pixelAddress _ _ | .writeIndexEntry _ _ _
  | .fillProtoline _ _ _ _ | .setColorBurst _ | .writePixel _ _ _ | .readPixel _ _ | .writeByte _ _
  | .writeWord _ _ | .readByte _ | .blit _ _ _ _ _ | .blitSplit _ _ _ _ _ | .waitIdle | .readStatus => true

/-- The instruction is a chip command, sent as a frame (R4), and not a host op. -/
def Instr.isFrame : Instr → Bool
  | .multiic _ | .wrsr _ | .write _ _ | .read _ _ | .picstart _ | .picend _ | .linelen _ | .vdctrl1 _
  | .indexstart _ | .vdctrl2 _ | .program _ | .bmc1 _ _ _ | .bmc2 _ _ _ | .bmstart | .bmstatus _ _ => true
  | .init | .protolineAddress _ | .pictureLineAddress _ | .pixelAddress _ _ | .writeIndexEntry _ _ _
  | .fillProtoline _ _ _ _ | .setColorBurst _ | .writePixel _ _ _ | .readPixel _ _ | .writeByte _ _
  | .writeWord _ _ | .readByte _ | .blit _ _ _ _ _ | .blitSplit _ _ _ _ _ | .waitIdle | .readStatus => false

end Sys2Proof
end

