-- ==== Sys2Proof/Decode.lean ====
section
/-! DEFINITION. The decoder, total on any bytes and any call, and after it the encoder, both from
spec/30_encoding.md: the frame formats R122–R129, the opcode map R127 and the host-op codes R133. -/

namespace Sys2Proof

/-! ## Byte order (R86, R130): every multi-byte field goes most significant byte first -/

/-- `hi(v)` of R11. -/
def hi (v : Half) : Byte := v.extractLsb' 8 8

/-- `lo(v)` of R11. -/
def lo (v : Half) : Byte := v.extractLsb' 0 8

/-- The bytes of a 16-bit value, most significant first (R122, R162). -/
def bytes16 (v : Half) : List Byte := [hi v, lo v]

/-- `addr24(a)` of R11: the three bytes of a frame address (R125). -/
def addr24 (a : BitVec 24) : List Byte := [a.extractLsb' 16 8, a.extractLsb' 8 8, a.extractLsb' 0 8]

/-- The bytes of a 32-bit value, most significant first (R123, R163). -/
def bytes32 (v : Word) : List Byte :=
  [v.extractLsb' 24 8, v.extractLsb' 16 8, v.extractLsb' 8 8, v.extractLsb' 0 8]

/-! ## Decoding -/

/-- `OPMAP^-1(b0)` of R190: the command whose opcode the byte is. -/
def OpMap.command (m : OpMap) (b : Byte) : Option Cmd := Cmd.all.find? fun c => m.code c == b

/-- The instruction a command's payload makes, by the command's format (R122–R129); none where the length is not one
the opcode allows (R191). -/
def frameInstr : Cmd → List Byte → Option Instr
  | .multiic, [d] => some (.multiic d)
  | .wrsr, [d] => some (.wrsr d)
  | .write, a2 :: a1 :: a0 :: x :: xs => some (.write (a2 ++ a1 ++ a0) (x :: xs))
  | .read, a2 :: a1 :: a0 :: x :: xs => some (.read (a2 ++ a1 ++ a0) (x :: xs))
  | .picstart, [v1, v0] => some (.picstart (v1 ++ v0))
  | .picend, [v1, v0] => some (.picend (v1 ++ v0))
  | .linelen, [v1, v0] => some (.linelen (v1 ++ v0))
  | .vdctrl1, [v1, v0] => some (.vdctrl1 (v1 ++ v0))
  | .indexstart, [v3, v2, v1, v0] => some (.indexstart (v3 ++ v2 ++ v1 ++ v0))
  | .vdctrl2, [v1, v0] => some (.vdctrl2 (v1 ++ v0))
  | .program, [v3, v2, v1, v0] => some (.program (v3 ++ v2 ++ v1 ++ v0))
  | .bmc1, [s1, s0, d1, d0, f] => some (.bmc1 (s1 ++ s0) (d1 ++ d0) f)
  | .bmc2, [s1, s0, w, h] => some (.bmc2 (s1 ++ s0) w h)
  | .bmstart, [] => some .bmstart
  | .bmstatus, [f1, f2] => some (.bmstatus f1 f2)
  | _, _ => none

/-- The instruction a call names (R133), by its code and as many arguments as the op takes. -/
def callInstr : Nat → List Nat → Option Instr
  | 0x00, [] => some .init
  | 0x01, [n] => some (.protolineAddress n)
  | 0x02, [n] => some (.pictureLineAddress n)
  | 0x03, [x, y] => some (.pixelAddress x y)
  | 0x04, [line, kind, value] => some (.writeIndexEntry line kind value)
  | 0x05, [n, offset, count, value] => some (.fillProtoline n offset count value)
  | 0x06, [enable] => some (.setColorBurst enable)
  | 0x07, [x, y, color] => some (.writePixel x y color)
  | 0x08, [x, y] => some (.readPixel x y)
  | 0x09, [a, d] => some (.writeByte a d)
  | 0x0A, [w, v] => some (.writeWord w v)
  | 0x0B, [a] => some (.readByte a)
  | 0x0C, [src, dst, width, height, stride] => some (.blit src dst width height stride)
  | 0x0D, [src, dst, width, height, stride] => some (.blitSplit src dst width height stride)
  | 0x0E, [] => some .waitIdle
  | 0x0F, [] => some .readStatus
  | _, _ => none

/-- What the decoder answers: an instruction, or by name why there is none. -/
inductive Decoded where
  /-- the request is this instruction -/
  | instr (i : Instr)
  /-- the opcode byte is no value of `OPMAP` (R192): `F_UNKNOWN_OPCODE` -/
  | unknownOpcode (b0 : Byte)
  /-- the length is not one the opcode allows (R191): `F_FRAME_LENGTH` -/
  | frameLength (b0 : Byte)
  /-- no byte was exchanged: not a frame (R192) -/
  | noFrame
  /-- the code names no host op (R133, R470) -/
  | unknownHostOp (code : Nat)
  /-- a host op called with another number of arguments than R133 gives it -/
  | callArity (code : Nat)
  deriving DecidableEq, Repr

/-- Decodes a frame's bytes in the order of R190: opcode, then length. -/
def decodeFrame (m : OpMap) : List Byte → Decoded
  | [] => .noFrame
  | b0 :: payload =>
    match m.command b0 with
    | none => .unknownOpcode b0
    | some c =>
      match frameInstr c payload with
      | some i => .instr i
      | none => .frameLength b0

/-- Decodes a call (R133, R470). -/
def decodeCall (code : Nat) (args : List Nat) : Decoded :=
  match callInstr code args with
  | some i => .instr i
  | none => if code < 16 then .callArity code else .unknownHostOp code

/-- The decoder: total on any frame and any call. -/
def decode (m : OpMap) : Request → Decoded
  | .frame bytes => decodeFrame m bytes
  | .call code args => decodeCall code args

/-! ## Encoding -/

/-- The encoder: the frame of a chip command (R122–R129) or the call of a host op (R133). -/
def encode (m : OpMap) : Instr → Request
  | .multiic d => .frame [m.multiic, d]
  | .wrsr d => .frame [m.wrsr, d]
  | .write a data => .frame (m.write :: addr24 a ++ data)
  | .read a filler => .frame (m.read :: addr24 a ++ filler)
  | .picstart v => .frame (m.picstart :: bytes16 v)
  | .picend v => .frame (m.picend :: bytes16 v)
  | .linelen v => .frame (m.linelen :: bytes16 v)
  | .vdctrl1 v => .frame (m.vdctrl1 :: bytes16 v)
  | .indexstart v => .frame (m.indexstart :: bytes32 v)
  | .vdctrl2 v => .frame (m.vdctrl2 :: bytes16 v)
  | .program v => .frame (m.program :: bytes32 v)
  | .bmc1 srcW dstW flags => .frame (m.bmc1 :: bytes16 srcW ++ bytes16 dstW ++ [flags])
  | .bmc2 stride width hm1 => .frame (m.bmc2 :: bytes16 stride ++ [width, hm1])
  | .bmstart => .frame [m.bmstart]
  | .bmstatus f1 f2 => .frame [m.bmstatus, f1, f2]
  | .init => .call 0x00 []
  | .protolineAddress n => .call 0x01 [n]
  | .pictureLineAddress n => .call 0x02 [n]
  | .pixelAddress x y => .call 0x03 [x, y]
  | .writeIndexEntry line kind value => .call 0x04 [line, kind, value]
  | .fillProtoline n offset count value => .call 0x05 [n, offset, count, value]
  | .setColorBurst enable => .call 0x06 [enable]
  | .writePixel x y color => .call 0x07 [x, y, color]
  | .readPixel x y => .call 0x08 [x, y]
  | .writeByte a d => .call 0x09 [a, d]
  | .writeWord w v => .call 0x0A [w, v]
  | .readByte a => .call 0x0B [a]
  | .blit src dst width height stride => .call 0x0C [src, dst, width, height, stride]
  | .blitSplit src dst width height stride => .call 0x0D [src, dst, width, height, stride]
  | .waitIdle => .call 0x0E []
  | .readStatus => .call 0x0F []

/-! ## The words of spec/opcode_table.json -/

/-- The shortest length R191 allows a command's frame. -/
def Cmd.minLength : Cmd → Nat
  | .bmstart => 1
  | .wrsr | .multiic => 2
  | .picstart | .picend | .linelen | .vdctrl1 | .vdctrl2 | .bmstatus => 3
  | .program | .indexstart | .bmc2 | .write | .read => 5
  | .bmc1 => 6

/-- How many arguments R133 gives the host op of a code; none where no host op has it. -/
def hostArity (code : Nat) : Option Nat :=
  [0, 1, 1, 2, 3, 4, 1, 3, 2, 2, 2, 1, 5, 5, 0, 0][code]?

/-- Byte `i` of a table word: bits `8i+7 … 8i`. -/
def tableByte (w i : Nat) : Byte := BitVec.ofNat 8 (w >>> (8 * i))

/-- A word of the table laid out as the machine receives it: a frame of the shortest length its opcode allows (longer
where the table gives it more bits), or, where the byte is no opcode of the reference `OPMAP` but a host-op code, that
op's call with its arguments zero. The codes 0x01–0x03 name a frame and a host op alike; only a frame is bits on a wire
(R133), so the frame is answered (log entry 12). -/
def tableRequest (nbits w : Nat) : Request :=
  match OpMap.reference.command (tableByte w 0) with
  | some c => .frame ((List.range (max c.minLength (nbits / 8))).map (tableByte w))
  | none =>
    match hostArity w with
    | some k => .call w (List.replicate k 0)
    | none => .frame ((List.range (max 1 (nbits / 8))).map (tableByte w))

/-- The instruction the decoder reads from a table word of `nbits` bits, every bit above them 0. -/
def decodeTableWord (nbits w : Nat) : Option Instr :=
  match decode OpMap.reference (tableRequest nbits w) with
  | .instr i => some i
  | _ => none

end Sys2Proof
end

