-- ==== Sys2Proof/Machine/State.lean ====
section
/-! DEFINITION. The machine's state, as plain data: the chip (spec/10_state.md R33–R49), the block layer (R50–R53),
the fault record (R55), and what the model itself keeps (the configuration R54, the draws, the engine's schedule, the
answers a step yields and the inputs it reads). `none` in a chip register is the spec's own `⊥`, "holds no value until
it is first written", which the rules test (log entry 2). -/

namespace Sys2Proof.Machine

/-- The SRAM (R33): the written bytes by byte address, addresses strictly rising. An address that is not listed holds
`⊥`, its reset value (R33, R96); a move that copies `⊥` takes the entry away again (R413). -/
abbrev Memory := List Host.Cell

/-- `VDCTRL1` (R41). -/
structure Vdctrl1 where
  /-- `PLL_EN`, v[12] -/
  pllEn : Bool
  /-- `PLL_SEL`, v[13] -/
  pllSel : Bool
  deriving DecidableEq, Repr

/-- The fields of `VDCTRL2` that are `⊥` at reset (R43); `ENABLE` is a field of its own, since it resets to 0. -/
structure VideoForm where
  /-- `LINECOUNT`, v[9:0] -/
  lineCount : BitVec 10
  /-- `PIXCLKS`, v[13:10] -/
  pixClks : BitVec 4
  /-- `PAL`, v[14] -/
  pal : Bool
  deriving DecidableEq, Repr

/-- `BMC1` (R45). `lpf` is live, the others are shadow fields. -/
structure Bmc1 where
  /-- `SRC_W`: source byte address bits [16:1] -/
  srcW : Half
  /-- `DST_W`: destination byte address bits [16:1] -/
  dstW : Half
  /-- `DIR`: 1 = descending -/
  dir : Bool
  /-- `DST_ODD`: destination byte address bit 0 -/
  dstOdd : Bool
  /-- `SRC_ODD`: source byte address bit 0 -/
  srcOdd : Bool
  /-- `LPF`: luma low-pass filter enable -/
  lpf : Bool
  deriving DecidableEq, Repr

/-- `BMC2` (R46), all shadow fields. -/
structure Bmc2 where
  /-- `STRIDE` -/
  stride : Half
  /-- `WIDTH` -/
  width : Byte
  /-- `HM1`: rows minus one -/
  hm1 : Byte
  deriving DecidableEq, Repr

/-- The active move registers (R47), latched together by an accepted `BMSTART`. -/
structure ActiveMove where
  /-- `A_SRC` -/
  src : BitVec 17
  /-- `A_DST` -/
  dst : BitVec 17
  /-- `A_DIR` -/
  dir : Bool
  /-- `A_STRIDE` -/
  stride : Half
  /-- `A_WIDTH` -/
  width : Byte
  /-- `A_HEIGHT`, 1 to 256 -/
  height : BitVec 9
  deriving DecidableEq, Repr

/-- The chip: its SRAM and its registers (R33–R47). The status word (R48) is a view of `busy`. -/
structure Chip where
  /-- `Mem` (R33) -/
  mem : Memory
  /-- `SELECT` (R34) -/
  select : Bool
  /-- `MODE` (R36) -/
  mode : Option (BitVec 2)
  /-- `MULTIIC` (R37) -/
  multiic : Option Byte
  /-- `PICSTART.START` (R38) -/
  picstart : Option (BitVec 12)
  /-- `PICEND.END` (R39) -/
  picend : Option (BitVec 12)
  /-- `LINELEN.LEN` (R40) -/
  linelen : Option (BitVec 12)
  /-- `VDCTRL1` (R41) -/
  vdctrl1 : Option Vdctrl1
  /-- `INDEXSTART.BASE` (R42) -/
  indexstart : Option (BitVec 17)
  /-- `VDCTRL2.ENABLE` (R43) -/
  enable : Bool
  /-- `VDCTRL2.LINECOUNT`, `.PIXCLKS`, `.PAL` (R43) -/
  videoForm : Option VideoForm
  /-- `PROGRAM` (R44) -/
  program : Option Word
  /-- `BMC1` (R45) -/
  bmc1 : Option Bmc1
  /-- `BMC2` (R46) -/
  bmc2 : Option Bmc2
  /-- the active move registers (R47) -/
  active : Option ActiveMove
  /-- `BUSY` (R47) -/
  busy : Bool
  deriving DecidableEq, Repr

/-- The error codes of host ops (spec/60_exceptions.md R461); their numbers are `Err.code` (Machine/Flags.lean). -/
inductive Err where
  /-- `E_OK` -/
  | ok
  /-- `E_CONFIG` -/
  | config
  /-- `E_RANGE` -/
  | range
  /-- `E_BLIT_NARROW` -/
  | blitNarrow
  /-- `E_BLIT_WIDE` -/
  | blitWide
  /-- `E_BLIT_OVERLAP1` -/
  | blitOverlap1
  /-- `E_TIMEOUT` -/
  | timeout
  deriving DecidableEq, Repr

/-- The block layer's state (R50–R53). -/
structure Block where
  /-- `FIRST_ERR` (R50): 8 bits, which only ever hold one of the codes of R461 -/
  firstErr : Err
  /-- `CLIP_COUNT` (R51) -/
  clipCount : Half
  /-- `MOVE_PENDING` (R52) -/
  movePending : Bool
  /-- `BURST_ON` (R53) -/
  burstOn : Bool
  deriving DecidableEq, Repr

/-- The chip-layer faults of R467: entries of the fault record, after which the machine goes on. -/
inductive ChipFault where
  /-- `F_UNKNOWN_OPCODE` (R192) -/
  | unknownOpcode
  /-- `F_FRAME_LENGTH` (R191) -/
  | frameLength
  /-- `F_RESERVED` (R198) -/
  | reserved
  /-- `F_MODE` (R194, R201) -/
  | mode
  /-- `F_MULTIIC` (R195, R200) -/
  | multiic
  /-- `F_ADDR` (R197) -/
  | addr
  /-- `F_BUSY_ACCESS` (R196) -/
  | busyAccess
  /-- `F_BUSY_START` (R213) -/
  | busyStart
  /-- `F_BM_PARAMS` (R213) -/
  | bmParams
  /-- `F_BM_RANGE` (R213) -/
  | bmRange
  /-- `F_BM_UNRELIABLE` (R213) -/
  | bmUnreliable
  /-- `F_UNWRITTEN_READ` (R206) -/
  | unwrittenRead
  deriving DecidableEq, Repr

/-- An entry `(name, b0, addr)` of the fault record (R468). -/
structure FaultEntry where
  name : ChipFault
  b0 : Byte
  addr : Option Nat
  deriving DecidableEq, Repr

/-- What a host op hands back to its caller (R133, R461). -/
inductive HostResult where
  /-- an error code -/
  | code (e : Err)
  /-- an error code and a value; the value is 0 with any code but `E_OK` (R461) -/
  | value (e : Err) (v : Nat)
  /-- `READ_STATUS`'s four values (R170) -/
  | status (firstErr : Err) (clipCount : Half) (movePending burstOn : Bool)
  deriving DecidableEq, Repr

/-- What reaches the machine from outside, in order (log entry 11). -/
inductive Input where
  /-- a frame of a chip-layer trace, or a call of a host op (R4) -/
  | request (r : Request)
  /-- `HOST_RESET` (R501), striking after that many more frames: 0 is between two host ops -/
  | hostReset (afterFrames : Nat)
  /-- `RESET` (R500) -/
  | powerOn
  deriving DecidableEq, Repr

/-- The whole state. `cfg`, and the fields from `draws` on, are the model's own (log entries 1, 5, 6, 10, 11, 17). -/
structure State where
  /-- `Cfg` (R6, R54): a parameter of the block; no step changes it -/
  cfg : Cfg
  /-- the chip layer -/
  chip : Chip
  /-- the block layer -/
  block : Block
  /-- the fault record (R55): a set, held as a list without repeats -/
  faults : List FaultEntry
  /-- how many draws have been taken -/
  draws : Nat
  /-- how many moves have been started -/
  moves : Nat
  /-- how many more frame boundaries the running move stays busy -/
  delay : Nat
  /-- how many `BMSTATUS` frames have returned `BUSY = 1` for the running move (R410) -/
  busyPolls : Nat
  /-- the response bytes `r0 … r(n-1)` of the last frame (R120, R193) -/
  response : List Byte
  /-- what the last host op returned; none while there is nothing to return -/
  result : Option HostResult
  /-- the frames the last host op sent, in order -/
  sent : List (List Byte)
  /-- what is still to come from outside -/
  inputs : List Input
  /-- a `HOST_RESET` on its way: it strikes when that many more frames have been sent (R501) -/
  hostResetIn : Option Nat
  deriving DecidableEq, Repr

/-- Why a run stops with a fault. The faults of the spec are no stops: they are entries of the fault record, and the
machine goes on (R190, R467, R469). -/
inductive Fault where
  /-- Raised by `step` for a call of a host op with another number of arguments than R133 gives that op: no rule says
  what such a call does. Safe: the model stops where the spec says nothing. -/
  | callArity (code : Nat)
  deriving DecidableEq, Repr

/-- Why a run is refused. -/
inductive Refusal where
  /-- Raised by an arm of `exec` for an instruction without a meaning. No arm raises it. Safe. -/
  | notModelled (mnemonic : String)
  /-- Raised by `step` for a call whose code is outside 0x00–0x0F: "a model of the block layer has no step for it and
  records the refusal for the whole run" (R470). Safe. -/
  | unknownHostOp (code : Nat)
  deriving DecidableEq, Repr

/-- The chip at `RESET`: the table of spec/10_state.md §7. -/
def Chip.reset : Chip where
  mem := []
  select := false
  mode := none
  multiic := none
  picstart := none
  picend := none
  linelen := none
  vdctrl1 := none
  indexstart := none
  enable := false
  videoForm := none
  program := none
  bmc1 := none
  bmc2 := none
  active := none
  busy := false

/-- The block layer at `RESET` and after `HOST_RESET` (R500, R501). -/
def Block.reset : Block where
  firstErr := .ok
  clipCount := 0
  movePending := false
  burstOn := false

/-- The state right after `RESET` (R500) of a block with a given configuration. The model's own counters start at 0
(log entries 5, 6). -/
def State.resetWith (c : Cfg) : State where
  cfg := c
  chip := Chip.reset
  block := Block.reset
  faults := []
  draws := 0
  moves := 0
  delay := 0
  busyPolls := 0
  response := []
  result := none
  sent := []
  inputs := []
  hostResetIn := none

/-- The state right after `RESET`, with the PAL reference configuration (R6; log entry 1). -/
def State.reset : State := State.resetWith Cfg.pal

/-- `s` with another chip. -/
def State.setChip (s : State) (c : Chip) : State := { s with chip := c }

/-- `s` with another block layer. -/
def State.setBlock (s : State) (b : Block) : State := { s with block := b }

/-- `s` with another SRAM. -/
def State.setMem (s : State) (m : Memory) : State := { s with chip := { s.chip with mem := m } }

end Sys2Proof.Machine
end

