-- ==== Sys2Proof/Machine/Ops.lean ====
section
/-! DEFINITION. The operations over the state: the SRAM (spec/20_memory.md), the draws (R193), raising a chip-layer
fault and failing a host op (spec/60_exceptions.md R463, R467, R468), the block-move engine's completion step and when
it is taken (spec/46_blitter.md R410–R413), and the reset events (spec/70_reset_and_hazards.md R500, R501). -/

namespace Sys2Proof.Machine

/-! ## The SRAM -/

/-- `Mem[a]` of R10: the byte at a byte address, or none for `⊥`. -/
def Memory.read (m : Memory) (a : Nat) : Option Byte := (m.find? fun c => c.1 == a).map Prod.snd

/-- The cells of bytes at ascending addresses from `a` (R86). -/
def Memory.cells (a : Nat) : List Byte → List Host.Cell
  | [] => []
  | b :: bs => (a, b) :: Memory.cells (a + 1) bs

/-- `MemWrite(a, n, bytes)` of R10: the bytes stored at `a`, `a + 1`, … -/
def Memory.write (m : Memory) (a : Nat) (bs : List Byte) : Memory :=
  m.filter (fun c => decide (c.1 < a)) ++ Memory.cells a bs ++ m.filter (fun c => decide (a + bs.length ≤ c.1))

/-- One cell set to a value or to `⊥` (`Mem[a] <- v` of R413). -/
def Memory.put (m : Memory) (a : Nat) (v : Option Byte) : Memory :=
  m.filter (fun c => decide (c.1 < a)) ++ v.toList.map (fun b => (a, b)) ++ m.filter (fun c => decide (a < c.1))

/-- The canonical form: addresses strictly rising, all inside the SRAM (R80). `⊥` is not listed by its type. -/
abbrev Memory.wf (m : Memory) : Prop := m.Pairwise (fun c d => c.1 < d.1) ∧ ∀ c ∈ m, c.1 < 131072

/-! ## Draws and responses -/

/-- The next `n` draws (R193: "any value, chosen freshly at each byte"). -/
def State.drawBytes (s : State) (n : Nat) : List Byte := (List.range n).map fun j => Config.freeByte (s.draws + j)

/-- The response bytes of a frame: recorded, and as many draws counted as used. -/
def State.respond (s : State) (r : List Byte) : State := { s with response := r, draws := s.draws + r.length }

/-- A response that carries no meaning: all draws (R193). -/
def State.respondDraws (s : State) (n : Nat) : State := s.respond (s.drawBytes n)

/-! ## The exceptions of the block: a chip-layer fault and a failing host op -/

/-- `raise F_X(info)` of R10: the entry `(name, b0, addr)` is added to the fault record, a set, and nothing else
changes (R467–R469). -/
def State.raise (s : State) (name : ChipFault) (b0 : Byte) (addr : Option Nat) : State :=
  { s with faults := if (⟨name, b0, addr⟩ : FaultEntry) ∈ s.faults then s.faults else s.faults ++ [⟨name, b0, addr⟩] }

/-- `FAIL(E)` of R463, its effect on the state: `FIRST_ERR` keeps the first error. -/
def State.fail (s : State) (e : Err) : State :=
  s.setBlock { s.block with firstErr := if s.block.firstErr = .ok then e else s.block.firstErr }

/-! ## The block-move engine -/

/-- The offsets `o(r, c) = r·A_STRIDE + c` in copy order (R412). -/
def ActiveMove.offsets (v : ActiveMove) : List Nat :=
  (List.range v.height.toNat).flatMap fun r => (List.range v.width.toNat).map fun c => r * v.stride.toNat + c

/-- The byte address an offset names, on the source or the destination side (R412): ascending from the first byte, or
descending from the last. Address arithmetic is on the register's 17 bits; `BMSTART` has checked that no move wraps
(R213; log entry 8). -/
def ActiveMove.at (v : ActiveMove) (base : BitVec 17) (o : Nat) : Nat :=
  (if v.dir then base - BitVec.ofNat 17 o else base + BitVec.ofNat 17 o).toNat

/-- One assignment of R413's loop. -/
def ActiveMove.copy (v : ActiveMove) (m : Memory) (o : Nat) : Memory :=
  Memory.put m (v.at v.dst o) (Memory.read m (v.at v.src o))

/-- R413's loop: each assignment reads the SRAM as the ones before it left it. -/
def ActiveMove.run (v : ActiveMove) (m : Memory) : Memory := v.offsets.foldl v.copy m

/-- `ENGINE_COMPLETE` (R413). With active registers that hold nothing, which no run reaches, there is nothing to copy
(log entry 8). -/
def State.complete (s : State) : State :=
  s.setChip { s.chip with
    mem := match s.chip.active with
      | some v => v.run s.chip.mem
      | none => s.chip.mem
    busy := false }

/-- R410's optional bound is reached: as many `BMSTATUS` frames as `ENGINE_POLL_BOUND` allows have returned
`BUSY = 1`. -/
def State.pollBoundReached (s : State) : Bool :=
  match s.cfg.enginePollBound with
  | some k => decide (k ≤ s.busyPolls)
  | none => false

/-- What the engine does between two frames (R410): while `BUSY = 1` it completes, when the free delay of the move is
over, or before a status frame that R410's bound would not let see `BUSY = 1`; else the delay counts down
(log entries 6, 7). -/
def State.engineGap (s : State) (statusNext : Bool) : State :=
  if s.chip.busy then
    if s.delay = 0 ∨ (statusNext ∧ s.pollBoundReached) then s.complete
    else { s with delay := s.delay - 1 }
  else s

/-! ## Resets -/

/-- `HOST_RESET` (R501): the block layer is reset, the chip and the fault record stay. The op it interrupts returns
nothing (log entry 10), and the result of one that had returned is not kept (DESIGN CHOICE, log entry 24). -/
def State.hostReset (s : State) : State :=
  { s.setBlock Block.reset with result := none, hostResetIn := none }

/-- `RESET` (R500): every piece of the machine's state to its reset value. The configuration (R54), the draws already
used and the inputs still to come are not the machine's (log entry 19). -/
def State.powerOn (s : State) : State :=
  { State.resetWith s.cfg with draws := s.draws, moves := s.moves, inputs := s.inputs }

end Sys2Proof.Machine
end

