-- ==== Sys2Proof/Machine/Operands.lean ====
section
/-! DEFINITION. The operand forms of the chip commands and their checks: reserved bits (spec/41_chip_commands.md
R198), the checks of a memory frame (R191, R194–R197) and of a block move (R213), and the block-move addresses
(spec/30_encoding.md R130). -/

namespace Sys2Proof.Machine

/-- The opcode byte of a command in this machine's `OPMAP`: `b0` of its frames. -/
def State.opcode (s : State) (c : Cmd) : Byte := s.cfg.opmap.code c

/-! ## Reserved bits (R198) -/

/-- `PICSTART`, `PICEND`, `LINELEN`: v[15:12] must be 0 (R38–R40). -/
def reservedOf12 (v : Half) : Bool := v.extractLsb' 12 4 != 0

/-- `VDCTRL1`: v[15:14] and v[11:0] must be 0 (R41). -/
def reservedOfVdctrl1 (v : Half) : Bool := v.extractLsb' 14 2 != 0 || v.extractLsb' 0 12 != 0

/-- `INDEXSTART`: v[31:17] must be 0 (R42). -/
def reservedOfIndexstart (v : Word) : Bool := v.extractLsb' 17 15 != 0

/-- `WRSR`: d[5:0] must be 0 (R36). -/
def reservedOfWrsr (d : Byte) : Bool := d.extractLsb' 0 6 != 0

/-- `BMC1`: f[3] and f[7:5] must be 0 (R45). -/
def reservedOfBmc1 (f : Byte) : Bool := f.getLsbD 3 || f.extractLsb' 5 3 != 0

/-! ## Memory frames -/

/-- A transfer of `k` bytes at `a` leaves the SRAM (R197): an address bit above bit 16 is set, or the last byte lies
past 0x1FFFF. -/
def transferOutside (a : BitVec 24) (k : Nat) : Bool :=
  a.extractLsb' 17 7 != 0 || decide (131072 < a.toNat + k)

/-- The checks of a `WRITE` or `READ` frame of `k` data bytes, in the order R205 gives; the first that fails is its
fault. `MODE` must be sequential (R194), `MULTIIC` off (R195), no move running (R196), the transfer inside the SRAM
(R197). -/
def State.memoryFault (s : State) (a : BitVec 24) (k : Nat) : Option ChipFault :=
  if s.chip.mode ≠ some 1 then some .mode
  else if s.chip.multiic.map BitVec.toNat ≠ some s.cfg.multiicOff then some .multiic
  else if s.chip.busy then some .busyAccess
  else if transferOutside a k then some .addr
  else none

/-! ## Block moves -/

/-- `{SRC_W, SRC_ODD}`, the source byte address (R130, R411). -/
def Bmc1.src (p : Bmc1) : BitVec 17 := p.srcW ++ BitVec.ofBool p.srcOdd

/-- `{DST_W, DST_ODD}`, the destination byte address (R130, R411). -/
def Bmc1.dst (p : Bmc1) : BitVec 17 := p.dstW ++ BitVec.ofBool p.dstOdd

/-- Two addresses are one byte apart. -/
def apart1 (x y : Nat) : Bool := x == y + 1 || y == x + 1

/-- `OVERLAP1(s, d, H, S)` of R213: some integer `k` with `|k| < H` gives `|d − s − k·S| = 1`. The two disjuncts are
`k` and `−k`. -/
def overlap1 (s d h stride : Nat) : Bool :=
  (List.range h).any fun k => apart1 d (s + k * stride) || apart1 (d + k * stride) s

/-- `(H − 1)·S + (W − 1)`: the offset of a rectangle's last byte (R213, R423). -/
def rectSpan (w h stride : Nat) : Nat := (h - 1) * stride + (w - 1)

/-- Check 3 of R213: the move reaches past an end of the SRAM. -/
def moveOutside (dir : Bool) (s d span : Nat) : Bool :=
  if dir then decide (s < span) || decide (d < span)
  else decide (0x1FFFF < s + span) || decide (0x1FFFF < d + span)

/-- Check 4 of R213: a move the source calls unreliable (R414). -/
def moveUnreliable (c : Cfg) (s d w h stride : Nat) : Bool :=
  decide (w < c.bmMinWidth) || decide (c.bmMaxWidth < w) || overlap1 s d h stride

/-- The active registers an accepted `BMSTART` latches from the shadow fields (R47). -/
def latch (p : Bmc1) (q : Bmc2) : ActiveMove where
  src := p.src
  dst := p.dst
  dir := p.dir
  stride := q.stride
  width := q.width
  height := q.hm1.setWidth 9 + 1

/-- The checks of `BMSTART` in R213's order: the fault, or the move to start. -/
def State.startCheck (s : State) : Except ChipFault ActiveMove :=
  if s.chip.busy then .error .busyStart
  else match s.chip.bmc1, s.chip.bmc2 with
    | some p, some q =>
      let src := p.src.toNat
      let dst := p.dst.toNat
      let w := q.width.toNat
      let h := q.hm1.toNat + 1
      let stride := q.stride.toNat
      if w = 0 then .error .bmParams
      else if moveOutside p.dir src dst (rectSpan w h stride) then .error .bmRange
      else if moveUnreliable s.cfg src dst w h stride then .error .bmUnreliable
      else .ok (latch p q)
    | _, _ => .error .bmParams

/-! ## The address of a fault entry (R468) -/

/-- The source address `s` of R213, `none` while `BMC1` is `⊥`. -/
def Chip.moveSource (c : Chip) : Option Nat := c.bmc1.map fun p => p.src.toNat

/-- The address in the entry of a fault of this command's frame, whatever the fault (R468): the frame's byte address for
`WRITE` and `READ`, the source address for `BMSTART`, none for the others. A memory frame too short to hold a whole
address names none (log entry 4). `F_UNWRITTEN_READ` has its own address (R206). -/
def State.faultAddress (s : State) : Cmd → List Byte → Option Nat
  | .write, a2 :: a1 :: a0 :: _ | .read, a2 :: a1 :: a0 :: _ => some (a2 ++ a1 ++ a0).toNat
  | .bmstart, _ => s.chip.moveSource
  | _, _ => none

end Sys2Proof.Machine
end

