-- ==== Sys2Proof/Machine/ChipMemory.lean ====
section
/-! DEFINITION. The memory commands of the chip, `WRITE` and `READ` (spec/41_chip_commands.md R205, R206). -/

namespace Sys2Proof.Machine

/-- `WRITE a, x0 … x(k-1)` (R205): the bytes land at ascending addresses (R86). With no data byte the frame has a wrong
length (R191). Each fault names the frame's address (R468). -/
def State.portWrite (s : State) (a : BitVec 24) (data : List Byte) : State :=
  (if data.isEmpty then s.raise .frameLength (s.opcode .write) (some a.toNat)
   else match s.memoryFault a data.length with
     | some f => s.raise f (s.opcode .write) (some a.toNat)
     | none => s.setMem (Memory.write s.chip.mem a.toNat data)).respondDraws (4 + data.length)

/-- The first `⊥` byte of `k` bytes at `a` (R468). -/
def Memory.firstUnwritten (m : Memory) (a k : Nat) : Option Nat :=
  ((List.range k).find? fun i => (Memory.read m (a + i)).isNone).map fun i => a + i

/-- The response of an accepted `READ`: `r(4+i) = Mem[a+i]`; every other byte, and the data of a `⊥` byte, is a draw
(R193, R206). -/
def State.readResponse (s : State) (a k : Nat) : List Byte :=
  s.drawBytes 4 ++ (List.range k).map fun i => (Memory.read s.chip.mem (a + i)).getD (Config.freeByte (s.draws + 4 + i))

/-- `READ a, k` (R206): no state changes; a `⊥` byte raises `F_UNWRITTEN_READ`, and the other bytes are still the
data. -/
def State.portRead (s : State) (a : BitVec 24) (filler : List Byte) : State :=
  if filler.isEmpty then (s.raise .frameLength (s.opcode .read) (some a.toNat)).respondDraws 4
  else match s.memoryFault a filler.length with
    | some f => (s.raise f (s.opcode .read) (some a.toNat)).respondDraws (4 + filler.length)
    | none =>
      (match Memory.firstUnwritten s.chip.mem a.toNat filler.length with
        | some u => s.raise .unwrittenRead (s.opcode .read) (some u)
        | none => s).respond (s.readResponse a.toNat filler.length)

/-- The meaning of `WRITE` (R205). -/
def execWrite (a : BitVec 24) (data : List Byte) (s : State) : Host.Outcome State Fault Refusal :=
  .next (s.portWrite a data)

/-- The meaning of `READ` (R206). -/
def execRead (a : BitVec 24) (filler : List Byte) (s : State) : Host.Outcome State Fault Refusal :=
  .next (s.portRead a filler)

end Sys2Proof.Machine
end

