-- ==== Sys2Proof/Machine/ChipRegisters.lean ====
section
/-! DEFINITION. The register-write commands of the chip (spec/41_chip_commands.md R200–R204, R207–R210). Each `port…`
definition is the chip command port's step for one frame (R190); each `exec…` is that step as the instruction's
meaning. A raised fault is recorded and the frame has no other effect (R190, R469); every response byte is a draw
(R193). -/

namespace Sys2Proof.Machine

/-- A register frame of `n` bytes: refused with a fault where its check fails, its write done where it passes, and
`n` draws as response. Every register frame is accepted while `BUSY = 1` (R199). -/
def State.registerFrame (s : State) (n : Nat) (c : Cmd) (fault : Option ChipFault) (written : Chip) : State :=
  (match fault with
    | some f => s.raise f (s.opcode c) none
    | none => s.setChip written).respondDraws n

/-- `F_RESERVED` where a reserved bit is 1 (R198). -/
def reservedFault (bad : Bool) : Option ChipFault := if bad then some .reserved else none

/-- `MULTIIC d` (R200): any value but `MULTIIC_OFF` raises `F_MULTIIC`. -/
def State.portMultiic (s : State) (d : Byte) : State :=
  s.registerFrame 2 .multiic (if d.toNat ≠ s.cfg.multiicOff then some .multiic else none)
    { s.chip with multiic := some d }

/-- `WRSR d` (R201): `F_RESERVED`, then `F_MODE` for any mode but sequential. -/
def State.portWrsr (s : State) (d : Byte) : State :=
  s.registerFrame 2 .wrsr
    (if reservedOfWrsr d then some .reserved else if d.extractLsb' 6 2 ≠ 1 then some .mode else none)
    { s.chip with mode := some 1 }

/-- `PICSTART v` (R202). -/
def State.portPicstart (s : State) (v : Half) : State :=
  s.registerFrame 3 .picstart (reservedFault (reservedOf12 v)) { s.chip with picstart := some (v.extractLsb' 0 12) }

/-- `PICEND v` (R203). -/
def State.portPicend (s : State) (v : Half) : State :=
  s.registerFrame 3 .picend (reservedFault (reservedOf12 v)) { s.chip with picend := some (v.extractLsb' 0 12) }

/-- `LINELEN v` (R207). -/
def State.portLinelen (s : State) (v : Half) : State :=
  s.registerFrame 3 .linelen (reservedFault (reservedOf12 v)) { s.chip with linelen := some (v.extractLsb' 0 12) }

/-- `VDCTRL1 v` (R204). -/
def State.portVdctrl1 (s : State) (v : Half) : State :=
  s.registerFrame 3 .vdctrl1 (reservedFault (reservedOfVdctrl1 v))
    { s.chip with vdctrl1 := some ⟨v.getLsbD 12, v.getLsbD 13⟩ }

/-- `INDEXSTART v` (R209). -/
def State.portIndexstart (s : State) (v : Word) : State :=
  s.registerFrame 5 .indexstart (reservedFault (reservedOfIndexstart v))
    { s.chip with indexstart := some (v.extractLsb' 0 17) }

/-- `VDCTRL2 v` (R210): every bit is a field. -/
def State.portVdctrl2 (s : State) (v : Half) : State :=
  s.registerFrame 3 .vdctrl2 none
    { s.chip with
      enable := v.getLsbD 15
      videoForm := some ⟨v.extractLsb' 0 10, v.extractLsb' 10 4, v.getLsbD 14⟩ }

/-- `PROGRAM v` (R208): every 32-bit value is a program. -/
def State.portProgram (s : State) (v : Word) : State :=
  s.registerFrame 5 .program none { s.chip with program := some v }

/-- The meaning of `MULTIIC` (R200). -/
def execMultiic (d : Byte) (s : State) : Host.Outcome State Fault Refusal := .next (s.portMultiic d)

/-- The meaning of `WRSR` (R201). -/
def execWrsr (d : Byte) (s : State) : Host.Outcome State Fault Refusal := .next (s.portWrsr d)

/-- The meaning of `PICSTART` (R202). -/
def execPicstart (v : Half) (s : State) : Host.Outcome State Fault Refusal := .next (s.portPicstart v)

/-- The meaning of `PICEND` (R203). -/
def execPicend (v : Half) (s : State) : Host.Outcome State Fault Refusal := .next (s.portPicend v)

/-- The meaning of `LINELEN` (R207). -/
def execLinelen (v : Half) (s : State) : Host.Outcome State Fault Refusal := .next (s.portLinelen v)

/-- The meaning of `VDCTRL1` (R204). -/
def execVdctrl1 (v : Half) (s : State) : Host.Outcome State Fault Refusal := .next (s.portVdctrl1 v)

/-- The meaning of `INDEXSTART` (R209). -/
def execIndexstart (v : Word) (s : State) : Host.Outcome State Fault Refusal := .next (s.portIndexstart v)

/-- The meaning of `VDCTRL2` (R210). -/
def execVdctrl2 (v : Half) (s : State) : Host.Outcome State Fault Refusal := .next (s.portVdctrl2 v)

/-- The meaning of `PROGRAM` (R208). -/
def execProgram (v : Word) (s : State) : Host.Outcome State Fault Refusal := .next (s.portProgram v)

end Sys2Proof.Machine
end

