-- ==== Sys2Proof/Machine/Flags.lean ====
section
/-! DEFINITION. The flags and counts of the block (spec/10_state.md R48–R53, R56) and the numbers of the error codes
(spec/60_exceptions.md R461). The block has no condition codes (R56). -/

namespace Sys2Proof.Machine

/-- The number of an error code (R461), which is what the 8 bits of `FIRST_ERR` hold (R50). -/
def Err.code : Err → Byte
  | .ok => 0
  | .config => 1
  | .range => 2
  | .blitNarrow => 3
  | .blitWide => 4
  | .blitOverlap1 => 5
  | .timeout => 6

/-- `r1` of a `BMSTATUS` response: the status word's bit 15 is `BUSY`, the seven bits below it are a draw (R48, R214). -/
def statusHigh (busy : Bool) (draw : Byte) : Byte := BitVec.ofBool busy ++ draw.extractLsb' 0 7

/-- `BUSY` as the block reads it from a status response: `r1[7]` (R129, R427). -/
def busyOf (response : List Byte) : Bool := (response.getD 1 0).getLsbD 7

/-- `CLIP_COUNT <- min(CLIP_COUNT + 1, 0xFFFF)` (R51, R303). -/
def clipSucc (c : Half) : Half := if c = 0xFFFF then 0xFFFF else c + 1

/-- `CLIP_COUNT` counts a dropped write (R303, R462). -/
def State.countClip (s : State) : State := s.setBlock { s.block with clipCount := clipSucc s.block.clipCount }

/-- `MOVE_PENDING <- v` (R52). -/
def State.setPending (s : State) (v : Bool) : State := s.setBlock { s.block with movePending := v }

/-- `BURST_ON <- v` (R53). -/
def State.setBurstOn (s : State) (v : Bool) : State := s.setBlock { s.block with burstOn := v }

end Sys2Proof.Machine
end

