-- ==== Sys2Proof/Machine/ChipMove.lean ====
section
/-! DEFINITION. The block-move commands of the chip (spec/41_chip_commands.md R211–R214). -/

namespace Sys2Proof.Machine

/-- `BMC1 sw, dw, f` (R211): shadow addresses and direction, and the live `LPF`. -/
def State.portBmc1 (s : State) (srcW dstW : Half) (f : Byte) : State :=
  s.registerFrame 6 .bmc1 (reservedFault (reservedOfBmc1 f))
    { s.chip with bmc1 := some ⟨srcW, dstW, f.getLsbD 0, f.getLsbD 1, f.getLsbD 2, f.getLsbD 4⟩ }

/-- `BMC2 v` (R212): shadow fields; `WIDTH = 0` is accepted here. -/
def State.portBmc2 (s : State) (stride : Half) (width hm1 : Byte) : State :=
  s.registerFrame 5 .bmc2 none { s.chip with bmc2 := some ⟨stride, width, hm1⟩ }

/-- The effect of an accepted `BMSTART` (R213): the active registers latch the shadow fields and `BUSY <- 1`. The
engine's free delay for this move is drawn (R410; log entry 6). -/
def State.startMove (s : State) (v : ActiveMove) : State :=
  { s.setChip { s.chip with active := some v, busy := true } with
    delay := Config.engineDelay s.moves, moves := s.moves + 1, busyPolls := 0 }

/-- `BMSTART` (R213). Each of its faults names the source address (R468). -/
def State.portBmstart (s : State) : State :=
  (match s.startCheck with
    | .error f => s.raise f (s.opcode .bmstart) s.chip.moveSource
    | .ok v => s.startMove v).respondDraws 1

/-- `BMSTATUS` (R214): `{r1, r2}` is the status word. Nothing in the chip changes; the model counts the answers
`BUSY = 1` of the running move, for R410's bound. -/
def State.portBmstatus (s : State) : State :=
  { s.respond [Config.freeByte s.draws, statusHigh s.chip.busy (Config.freeByte (s.draws + 1)),
      Config.freeByte (s.draws + 2)] with
    busyPolls := if s.chip.busy then s.busyPolls + 1 else s.busyPolls }

/-- The meaning of `BMC1` (R211). -/
def execBmc1 (srcW dstW : Half) (flags : Byte) (s : State) : Host.Outcome State Fault Refusal :=
  .next (s.portBmc1 srcW dstW flags)

/-- The meaning of `BMC2` (R212). -/
def execBmc2 (stride : Half) (width hm1 : Byte) (s : State) : Host.Outcome State Fault Refusal :=
  .next (s.portBmc2 stride width hm1)

/-- The meaning of `BMSTART` (R213). -/
def execBmstart (s : State) : Host.Outcome State Fault Refusal := .next s.portBmstart

/-- The meaning of `BMSTATUS` (R214); the filler bytes are ignored. -/
def execBmstatus (s : State) : Host.Outcome State Fault Refusal := .next s.portBmstatus

end Sys2Proof.Machine
end

