-- ==== Sys2Proof/Machine/Port.lean ====
section
/-! DEFINITION. The chip command port (spec/41_chip_commands.md R190): what a whole frame does to the machine. -/

namespace Sys2Proof.Machine

/-- The port's step for a decoded frame. A host op is no frame and never reaches the port. -/
def State.portInstr (s : State) : Instr → State
  | .multiic d => s.portMultiic d
  | .wrsr d => s.portWrsr d
  | .write a data => s.portWrite a data
  | .read a filler => s.portRead a filler
  | .picstart v => s.portPicstart v
  | .picend v => s.portPicend v
  | .linelen v => s.portLinelen v
  | .vdctrl1 v => s.portVdctrl1 v
  | .indexstart v => s.portIndexstart v
  | .vdctrl2 v => s.portVdctrl2 v
  | .program v => s.portProgram v
  | .bmc1 srcW dstW flags => s.portBmc1 srcW dstW flags
  | .bmc2 stride width hm1 => s.portBmc2 stride width hm1
  | .bmstart => s.portBmstart
  | .bmstatus _ _ => s.portBmstatus
  | .init | .protolineAddress _ | .pictureLineAddress _ | .pixelAddress _ _ | .writeIndexEntry _ _ _
  | .fillProtoline _ _ _ _ | .setColorBurst _ | .writePixel _ _ _ | .readPixel _ _ | .writeByte _ _
  | .writeWord _ _ | .readByte _ | .blit _ _ _ _ _ | .blitSplit _ _ _ _ _ | .waitIdle | .readStatus => s

/-- A frame that decodes to no instruction: its fault is recorded, with the address its command gives it, and its
response is draws (R191–R193, R468). -/
def State.rejectFrame (s : State) (f : ChipFault) (b0 : Byte) (payload : List Byte) : State :=
  (s.raise f b0 ((s.cfg.opmap.command b0).bind fun c => s.faultAddress c payload)).respondDraws (payload.length + 1)

/-- `CHIP_STEP(b0 … b(n-1))` of R190. -/
def State.portFrame (s : State) (bytes : List Byte) : State :=
  match decodeFrame s.cfg.opmap bytes with
  | .instr i => s.portInstr i
  | .unknownOpcode b0 => s.rejectFrame .unknownOpcode b0 bytes.tail
  | .frameLength b0 => s.rejectFrame .frameLength b0 bytes.tail
  | .noFrame | .unknownHostOp _ | .callArity _ => s

/-- The frame is a `BMSTATUS` the chip will answer with its status word. -/
def isStatusFrame (m : OpMap) (bytes : List Byte) : Bool :=
  match decodeFrame m bytes with
  | .instr (.bmstatus _ _) => true
  | _ => false

/-- What happens up to the deassertion of select, at which the chip executes the frame (R161, R190): the engine has its
chance between the frame before and this one (R410), the bytes go over while `SELECT` is 1, and it is 0 again. A
`HOST_RESET` on its way comes one frame nearer (R501). -/
def State.transfer (s : State) (bytes : List Byte) : State :=
  let t := s.engineGap (isStatusFrame s.cfg.opmap bytes)
  { t.setChip { t.chip with select := false } with hostResetIn := t.hostResetIn.map (· - 1) }

end Sys2Proof.Machine
end

