-- ==== Sys2Proof/Machine/Transport.lean ====
section
/-! DEFINITION. The block layer's transport (spec/40_transport.md): running a host op, sending frames (R161–R169), the
bounded wait and the drain (spec/46_blitter.md R427, R428), and the host ops `READ_STATUS`, `WRITE_BYTE`, `WRITE_WORD`,
`READ_BYTE` (R170–R173) and `WAIT_IDLE` (R432). -/

namespace Sys2Proof.Machine

/-! ## Running a host op -/

/-- How a part of a host op ends. -/
inductive Run (α : Type) where
  /-- it goes on, with a value -/
  | ok (a : α) (s : State)
  /-- it has failed with an error code, already recorded (R463) -/
  | err (e : Err) (s : State)
  /-- `HOST_RESET` struck before its next frame: no further frame is sent (R501) -/
  | cut (s : State)

/-- The rest of a host op after a part of it. -/
def Run.andThen {α β : Type} : Run α → (α → State → Run β) → Run β
  | .ok a s, k => k a s
  | .err e s, _ => .err e s
  | .cut s, _ => .cut s

/-- `FAIL(E)` of R463, as the end of a host op. -/
def State.failRun {α : Type} (s : State) (e : Err) : Run α := .err e (s.fail e)

/-- A host op starts: it has sent nothing and returned nothing yet. -/
def State.beginOp (s : State) : State := { s with sent := [], result := none }

/-- The end of a host op that returns an error code alone. -/
def finishCode (r : Run Unit) : Host.Outcome State Fault Refusal :=
  .next (match r with
    | .ok _ s => { s with result := some (.code .ok) }
    | .err e s => { s with result := some (.code e) }
    | .cut s => s.hostReset)

/-- The end of a host op that returns a value: 0 with any code but `E_OK` (R461). -/
def finishValue (r : Run Nat) : Host.Outcome State Fault Refusal :=
  .next (match r with
    | .ok v s => { s with result := some (.value .ok v) }
    | .err e s => { s with result := some (.value e 0) }
    | .cut s => s.hostReset)

/-! ## Sending frames -/

/-- The bytes of a chip command's frame. -/
def frameBytes (m : OpMap) (i : Instr) : List Byte :=
  match encode m i with
  | .frame bytes => bytes
  | .call _ _ => []

/-- `EMIT` of R161: one frame goes to the chip, which executes it as one step, and its response bytes come back. A
`HOST_RESET` that is due strikes instead (R501). -/
def State.emit (s : State) (i : Instr) : Run (List Byte) :=
  match s.hostResetIn with
  | some 0 => .cut s
  | _ =>
    let bytes := frameBytes s.cfg.opmap i
    let t := (s.transfer bytes).portFrame bytes
    .ok t.response { t with sent := t.sent ++ [bytes] }

/-- Frames sent one after the other. -/
def State.emitAll : List Instr → State → Run Unit
  | [], s => .ok () s
  | i :: is, s => (s.emit i).andThen fun _ t => State.emitAll is t

/-- `write_byte(a, d)` (R164), as the frame it sends. -/
def writeByteFrame (a d : Nat) : Instr := .write (BitVec.ofNat 24 a) [BitVec.ofNat 8 d]

/-- `write_word(w, v)` (R165): the byte address is `2w`, the word goes high byte first. -/
def writeWordFrame (w v : Nat) : Instr := .write (BitVec.ofNat 24 (2 * w)) (bytes16 (BitVec.ofNat 16 v))

/-- `read(a, 1)` (R166), as the frame it sends. -/
def readByteFrame (a : Nat) : Instr := .read (BitVec.ofNat 24 a) [0]

/-- The status frame of R427: `BMSTATUS` with filler bytes 0x00. -/
def statusFrame : Instr := .bmstatus 0 0

/-! ## Waiting -/

/-- The loop of `POLL_IDLE` with at most `n` more polls (R427). -/
def State.pollLoop : Nat → State → Run Unit
  | 0, s => s.failRun .timeout
  | n + 1, s => (s.emit statusFrame).andThen fun r t =>
      if busyOf r then State.pollLoop n t else .ok () (t.setPending false)

/-- How many polls a wait may take: `BUSY_POLL_LIMIT`, or, with `none`, as many as the engine's finite delay lets see
`BUSY = 1` and one more, so that the wait ends by the engine's completion alone (R410, R427). -/
def State.pollLimit (s : State) : Nat :=
  match s.cfg.busyPollLimit with
  | some n => n
  | none => s.delay + 1

/-- `POLL_IDLE()` (R427). -/
def State.pollIdle (s : State) : Run Unit := State.pollLoop s.pollLimit s

/-- `DRAIN()` (R428). -/
def State.drain (s : State) : Run Unit := if s.block.movePending then s.pollIdle else .ok () s

/-- A host op's frame that stores to the SRAM: drained first (R428), one frame, no value. -/
def State.drainAndSend (s : State) (i : Instr) : Run Unit :=
  s.drain.andThen fun _ t => (t.emit i).andThen fun _ u => .ok () u

/-- A host op's frame that reads one byte: drained first, and the byte is `r4` (R166). -/
def State.drainAndRead (s : State) (a : Nat) : Run Nat :=
  s.drain.andThen fun _ t => (t.emit (readByteFrame a)).andThen fun r u => .ok (r.getD 4 0).toNat u

/-! ## Host ops -/

/-- `READ_STATUS()` (R170): it runs with any `Cfg`, sends no frame and changes no state. -/
def execReadStatus (s : State) : Host.Outcome State Fault Refusal :=
  .next { s.beginOp with
    result := some (.status s.block.firstErr s.block.clipCount s.block.movePending s.block.burstOn) }

/-- `WRITE_BYTE(a, d)` (R171). A `d` that is no byte is `E_RANGE` by R133 (log entry 13). -/
def State.opWriteByte (s : State) (a d : Nat) : Run Unit :=
  if !s.cfg.valid then s.failRun .config
  else if 131072 ≤ a ∨ 256 ≤ d then s.failRun .range
  else s.drainAndSend (writeByteFrame a d)

/-- The meaning of `WRITE_BYTE` (R171). -/
def execWriteByte (a d : Nat) (s : State) : Host.Outcome State Fault Refusal :=
  finishCode (s.beginOp.opWriteByte a d)

/-- `WRITE_WORD(w, v)` (R172). -/
def State.opWriteWord (s : State) (w v : Nat) : Run Unit :=
  if !s.cfg.valid then s.failRun .config
  else if 65536 ≤ w ∨ 65536 ≤ v then s.failRun .range
  else s.drainAndSend (writeWordFrame w v)

/-- The meaning of `WRITE_WORD` (R172). -/
def execWriteWord (w v : Nat) (s : State) : Host.Outcome State Fault Refusal :=
  finishCode (s.beginOp.opWriteWord w v)

/-- `READ_BYTE(a)` (R173). -/
def State.opReadByte (s : State) (a : Nat) : Run Nat :=
  if !s.cfg.valid then s.failRun .config
  else if 131072 ≤ a then s.failRun .range
  else s.drainAndRead a

/-- The meaning of `READ_BYTE` (R173). -/
def execReadByte (a : Nat) (s : State) : Host.Outcome State Fault Refusal := finishValue (s.beginOp.opReadByte a)

/-- `WAIT_IDLE()` (R432): it polls at least once whatever `MOVE_PENDING` holds. -/
def State.opWaitIdle (s : State) : Run Unit :=
  if !s.cfg.valid then s.failRun .config else s.pollIdle

/-- The meaning of `WAIT_IDLE` (R432). -/
def execWaitIdle (s : State) : Host.Outcome State Fault Refusal := finishCode s.beginOp.opWaitIdle

end Sys2Proof.Machine
end

