-- ==== Sys2Proof/Machine/Blitter.lean ====
section
/-! DEFINITION. The block-move wrapper: the host ops `BLIT` (spec/46_blitter.md R420–R425) and `BLIT_SPLIT` (R426). -/

namespace Sys2Proof.Machine

/-- The `E_RANGE` checks of R420. A width that is no u16 is `E_RANGE` too, by R133 (log entry 13). -/
def blitOutOfRange (src dst w h stride : Nat) : Bool :=
  decide (256 < h ∨ 65535 < stride ∨ 65535 < w ∨ (1 < h ∧ stride < w) ∨
    131072 < src + (h - 1) * stride + w ∨ 131072 < dst + (h - 1) * stride + w)

/-- `DIR = 1` exactly when `dst > src` (R422). -/
def blitDescends (src dst : Nat) : Bool := decide (src < dst)

/-- The address the engine is given: the first byte, or the last of a descending move (R423). -/
def blitAddress (descends : Bool) (a w h stride : Nat) : Nat := if descends then a + rectSpan w h stride else a

/-- `dir | (d mod 2) << 1 | (s mod 2) << 2 | LPF_ENABLE << 4` (R420, R421). -/
def blitFlags (c : Cfg) (descends : Bool) (s d : Nat) : Byte :=
  BitVec.ofNat 8 ((if descends then 1 else 0) ||| ((d % 2) <<< 1) ||| ((s % 2) <<< 2) ||| (c.lpfEnable <<< 4))

/-- The `BMC1` frame of a `BLIT` (R420, R423). -/
def blitFrame1 (c : Cfg) (src dst w h stride : Nat) : Instr :=
  let dir := blitDescends src dst
  let s := blitAddress dir src w h stride
  let d := blitAddress dir dst w h stride
  .bmc1 (BitVec.ofNat 16 (s / 2)) (BitVec.ofNat 16 (d / 2)) (blitFlags c dir s d)

/-- The `BMC2` frame of a `BLIT` (R420). -/
def blitFrame2 (w h stride : Nat) : Instr :=
  .bmc2 (BitVec.ofNat 16 stride) (BitVec.ofNat 8 w) (BitVec.ofNat 8 (h - 1))

/-- The frames of a `BLIT` that has passed its checks (R420, R424): parameters, poll, start. -/
def State.blitFrames (s : State) (src dst w h stride : Nat) : Run Unit :=
  (s.emit (blitFrame1 s.cfg src dst w h stride)).andThen fun _ t =>
    (t.emit (blitFrame2 w h stride)).andThen fun _ u =>
      u.pollIdle.andThen fun _ x =>
        (x.emit .bmstart).andThen fun _ y => .ok () (y.setPending true)

/-- `BLIT(src, dst, width, height, stride)` (R420). -/
def State.opBlit (s : State) (src dst w h stride : Nat) : Run Unit :=
  if !s.cfg.valid then s.failRun .config
  else if w = 0 ∨ h = 0 then .ok () s
  else if blitOutOfRange src dst w h stride then s.failRun .range
  else if w < s.cfg.bmMinWidth then s.failRun .blitNarrow
  else if s.cfg.bmMaxWidth < w then s.failRun .blitWide
  else if overlap1 src dst h stride then s.failRun .blitOverlap1
  else s.blitFrames src dst w h stride

/-- The meaning of `BLIT` (R420). -/
def execBlit (src dst width height stride : Nat) (s : State) : Host.Outcome State Fault Refusal :=
  finishCode (s.beginOp.opBlit src dst width height stride)

/-- `k = ceil(w / BM_MAX_WIDTH)`, how many chunks (R426, R12). -/
def chunkCount (c : Cfg) (w : Nat) : Nat := (w + c.bmMaxWidth - 1) / c.bmMaxWidth

/-- `width_i` (R426): the first `w mod k` chunks are one byte wider. -/
def chunkWidth (c : Cfg) (w i : Nat) : Nat :=
  w / chunkCount c w + if i < w % chunkCount c w then 1 else 0

/-- `offset_i` (R426): the widths before it, added up. -/
def chunkOffset (c : Cfg) (w i : Nat) : Nat := ((List.range i).map (chunkWidth c w)).sum

/-- The chunk numbers in the order they are moved (R426): the far end first where `dst > src`. -/
def chunkOrder (c : Cfg) (src dst w : Nat) : List Nat :=
  if src < dst then (List.range (chunkCount c w)).reverse else List.range (chunkCount c w)

/-- The loop of `BLIT_SPLIT` over chunk numbers (R426). -/
def State.blitChunks (src dst w h stride : Nat) : List Nat → State → Run Unit
  | [], s => .ok () s
  | i :: is, s =>
    (s.opBlit (src + chunkOffset s.cfg w i) (dst + chunkOffset s.cfg w i) (chunkWidth s.cfg w i) h stride).andThen
      fun _ t => State.blitChunks src dst w h stride is t

/-- `BLIT_SPLIT(src, dst, width, height, stride)` (R426): every check on the whole rectangle before any frame. -/
def State.opBlitSplit (s : State) (src dst w h stride : Nat) : Run Unit :=
  if !s.cfg.valid then s.failRun .config
  else if w = 0 ∨ h = 0 then .ok () s
  else if blitOutOfRange src dst w h stride then s.failRun .range
  else if w < s.cfg.bmMinWidth then s.failRun .blitNarrow
  else if overlap1 src dst h stride then s.failRun .blitOverlap1
  else if w / chunkCount s.cfg w < s.cfg.bmMinWidth then s.failRun .blitNarrow
  else State.blitChunks src dst w h stride (chunkOrder s.cfg src dst w) s

/-- The meaning of `BLIT_SPLIT` (R426). -/
def execBlitSplit (src dst width height stride : Nat) (s : State) : Host.Outcome State Fault Refusal :=
  finishCode (s.beginOp.opBlitSplit src dst width height stride)

end Sys2Proof.Machine
end

