-- ==== Sys2Proof/Machine/Layout.lean ====
section
/-! DEFINITION. The framebuffer address generator and the index-table builder: the index entry (spec/43_layout_index.md
R305–R307) and the host ops `PROTOLINE_ADDRESS`, `PICTURE_LINE_ADDRESS`, `PIXEL_ADDRESS`, `WRITE_INDEX_ENTRY`,
`FILL_PROTOLINE`, `WRITE_PIXEL`, `READ_PIXEL` (R298–R304). -/

namespace Sys2Proof.Machine

/-! ## The index entry -/

/-- `ENC_PROTO(n)` (R305), in address order. -/
def encProto (n : Nat) : List Byte := [0, 0, BitVec.ofNat 8 (n <<< 4)]

/-- `ENC_PIC(A)` (R306), in address order: the selector is 0 and address bit 16 is bit 0 of the third byte. -/
def encPic (a : Nat) : List Byte :=
  let v : BitVec 17 := BitVec.ofNat 17 a
  [v.extractLsb' 0 8, v.extractLsb' 8 8, (v.extractLsb' 16 1).setWidth 8]

/-- `A` of an entry (R307): `{e2[0], e1, e0}`; 0 means no picture. -/
def entryPicture (e0 e1 e2 : Byte) : BitVec 17 := e2.extractLsb' 0 1 ++ e1 ++ e0

/-- `SEL` of an entry (R307): `e2[7:4]`. -/
def entrySelector (e2 : Byte) : BitVec 4 := e2.extractLsb' 4 4

/-! ## The pseudo-instructions (R135), each one `WRITE` frame -/

/-- `count` copies of a word, high byte first. -/
def repeatWord (count : Nat) (v : Half) : List Byte := (List.replicate count (bytes16 v)).flatten

/-- `FILLW a, count, v` -/
def fillFrame (a count v : Nat) : Instr := .write (BitVec.ofNat 24 a) (repeatWord count (BitVec.ofNat 16 v))

/-- `ZERO a, count` -/
def zeroFrame (a count : Nat) : Instr := .write (BitVec.ofNat 24 a) (List.replicate count 0)

/-- `ENTRY a, b0 b1 b2` -/
def entryFrame (a : Nat) (e : List Byte) : Instr := .write (BitVec.ofNat 24 a) e

/-! ## Host ops -/

/-- `PROTOLINE_ADDRESS(n)` (R298), a word address. -/
def State.opProtolineAddress (s : State) (n : Nat) : Run Nat :=
  if !s.cfg.valid then s.failRun .config
  else if s.cfg.numProtolines ≤ n then s.failRun .range
  else .ok (s.cfg.protoWord n) s

/-- The meaning of `PROTOLINE_ADDRESS` (R298). -/
def execProtolineAddress (n : Nat) (s : State) : Host.Outcome State Fault Refusal :=
  finishValue (s.beginOp.opProtolineAddress n)

/-- `PICTURE_LINE_ADDRESS(n)` (R299), a byte address. -/
def State.opPictureLineAddress (s : State) (n : Nat) : Run Nat :=
  if !s.cfg.valid then s.failRun .config
  else if s.cfg.height ≤ n then s.failRun .range
  else .ok (s.cfg.row n) s

/-- The meaning of `PICTURE_LINE_ADDRESS` (R299). -/
def execPictureLineAddress (n : Nat) (s : State) : Host.Outcome State Fault Refusal :=
  finishValue (s.beginOp.opPictureLineAddress n)

/-- `PIXEL_ADDRESS(x, y)` (R300): a coordinate outside the picture is an error here. -/
def State.opPixelAddress (s : State) (x y : Nat) : Run Nat :=
  if !s.cfg.valid then s.failRun .config
  else if s.cfg.width ≤ x ∨ s.cfg.height ≤ y then s.failRun .range
  else .ok (s.cfg.pix x y) s

/-- The meaning of `PIXEL_ADDRESS` (R300). -/
def execPixelAddress (x y : Nat) (s : State) : Host.Outcome State Fault Refusal :=
  finishValue (s.beginOp.opPixelAddress x y)

/-- The entry bytes `WRITE_INDEX_ENTRY` writes, or none where its arguments are out of range (R301). -/
def indexEntryBytes (c : Cfg) (kind value : Nat) : Option (List Byte) :=
  if kind = 0 then if c.numProtolines ≤ value then none else some (encProto value)
  else if kind = 1 then if value = 0 ∨ 131072 < value + c.width then none else some (encPic value)
  else none

/-- `WRITE_INDEX_ENTRY(line, kind, value)` (R301). -/
def State.opWriteIndexEntry (s : State) (line kind value : Nat) : Run Unit :=
  if !s.cfg.valid then s.failRun .config
  else if s.cfg.totalLines ≤ line then s.failRun .range
  else match indexEntryBytes s.cfg kind value with
    | none => s.failRun .range
    | some e => s.drainAndSend (entryFrame (s.cfg.entryAddr line) e)

/-- The meaning of `WRITE_INDEX_ENTRY` (R301). -/
def execWriteIndexEntry (line kind value : Nat) (s : State) : Host.Outcome State Fault Refusal :=
  finishCode (s.beginOp.opWriteIndexEntry line kind value)

/-- `FILL_PROTOLINE(n, offset, count, value)` (R302): `count = 0` succeeds with no frame. -/
def State.opFillProtoline (s : State) (n offset count value : Nat) : Run Unit :=
  if !s.cfg.valid then s.failRun .config
  else if s.cfg.numProtolines ≤ n ∨ 65536 ≤ value ∨ s.cfg.lineLen < offset + count then s.failRun .range
  else if count = 0 then .ok () s
  else s.drainAndSend (fillFrame (s.cfg.protoByte n + 2 * offset) count value)

/-- The meaning of `FILL_PROTOLINE` (R302). -/
def execFillProtoline (n offset count value : Nat) (s : State) : Host.Outcome State Fault Refusal :=
  finishCode (s.beginOp.opFillProtoline n offset count value)

/-- `WRITE_PIXEL(x, y, color)` (R303): a coordinate outside the picture is dropped and counted, not an error (R462). -/
def State.opWritePixel (s : State) (x y color : Nat) : Run Unit :=
  if !s.cfg.valid then s.failRun .config
  else if 256 ≤ color then s.failRun .range
  else if s.cfg.width ≤ x ∨ s.cfg.height ≤ y then .ok () s.countClip
  else s.drainAndSend (writeByteFrame (s.cfg.pix x y) color)

/-- The meaning of `WRITE_PIXEL` (R303). -/
def execWritePixel (x y color : Nat) (s : State) : Host.Outcome State Fault Refusal :=
  finishCode (s.beginOp.opWritePixel x y color)

/-- `READ_PIXEL(x, y)` (R304). -/
def State.opReadPixel (s : State) (x y : Nat) : Run Nat :=
  if !s.cfg.valid then s.failRun .config
  else if s.cfg.width ≤ x ∨ s.cfg.height ≤ y then s.failRun .range
  else s.drainAndRead (s.cfg.pix x y)

/-- The meaning of `READ_PIXEL` (R304). -/
def execReadPixel (x y : Nat) (s : State) : Host.Outcome State Fault Refusal :=
  finishValue (s.beginOp.opReadPixel x y)

end Sys2Proof.Machine
end

