-- ==== Sys2Proof/Machine/Video.lean ====
section
/-! DEFINITION. The pattern generator: the scan-out, an observer that reads the state and writes nothing
(spec/44_video_pattern.md R340–R346), the microcode unit (R344), the protoline patterns (R348–R351), and the host op
`SET_COLOR_BURST` (R353). -/

namespace Sys2Proof.Machine

/-! ## The microcode unit -/

/-- The colour components of a picture byte (R344). -/
structure Pixel where
  y : Byte
  u : Byte
  v : Byte
  deriving DecidableEq, Repr

/-- `OP[k]` of R44: byte `k` of the program. -/
def microOp (p : Word) (k : Nat) : Byte := p.extractLsb' (8 * k) 8

/-- `PLANE` of an op (R44): 0 = Y, 1 = U, 2 = V, 3 = END. -/
def opPlane (op : Byte) : BitVec 2 := op.extractLsb' 0 2

/-- The width of the field an op extracts, `NBM1 + 1` bits (R44). -/
def opBits (op : Byte) : Nat := (op.extractLsb' 2 3).toNat + 1

/-- `SHIFT` of an op (R44). -/
def opShift (op : Byte) : Nat := (op.extractLsb' 5 3).toNat

/-- `comp[plane] <- x`. -/
def Pixel.setPlane (px : Pixel) (plane : BitVec 2) (x : Byte) : Pixel :=
  if plane = 0 then { px with y := x } else if plane = 1 then { px with u := x } else { px with v := x }

/-- The loop of `UCODE` over the op slots, from the pixel data `d` (R344). -/
def runOps : List Byte → Pixel → Byte → Pixel
  | [], px, _ => px
  | op :: ops, px, d =>
    if opPlane op = 3 then px
    else runOps ops (px.setPlane (opPlane op) (d &&& BitVec.ofNat 8 (2 ^ opBits op - 1))) (d >>> opShift op)

/-- `UCODE(P, b)` (R344). -/
def ucode (p : Word) (b : Byte) : Pixel :=
  runOps [microOp p 0, microOp p 1, microOp p 2, microOp p 3] ⟨0, 0, 0⟩ b

/-! ## The scan-out -/

/-- What one clock of one line shows (R342, R345). -/
inductive Sample where
  /-- a protoline word, raw (R343) -/
  | proto (w : Half)
  /-- a decoded picture pixel -/
  | pixel (p : Pixel)
  /-- a byte it reads is `⊥` -/
  | undef
  deriving DecidableEq, Repr

/-- The video registers a well-configured scan-out reads (R340, R342). -/
structure ScanRegs where
  start : Nat
  stop : Nat
  len : Nat
  base : Nat
  lineCount : Nat
  pixClks : Nat
  program : Word
  deriving DecidableEq, Repr

/-- The scan-out's condition (R340). -/
inductive ScanMode where
  | off
  | undefined
  | running (r : ScanRegs)
  deriving DecidableEq, Repr

/-- The registers of a well-configured scan-out (R340), none where some condition fails. -/
def Chip.scanRegs (c : Chip) : Option ScanRegs :=
  match c.picstart, c.picend, c.linelen, c.indexstart, c.videoForm, c.program, c.vdctrl1 with
  | some start, some stop, some len, some base, some form, some program, some clock =>
    if 1 ≤ len.toNat ∧ 1 ≤ form.lineCount.toNat ∧ 1 ≤ form.pixClks.toNat ∧ clock.pllEn ∧ clock.pllSel then
      some ⟨start.toNat, stop.toNat, len.toNat, base.toNat, form.lineCount.toNat, form.pixClks.toNat, program⟩
    else none
  | _, _, _, _, _, _, _ => none

/-- Off, on but not well-configured, or running (R340). -/
def Chip.scanMode (c : Chip) : ScanMode :=
  if c.enable then
    match c.scanRegs with
    | some r => .running r
    | none => .undefined
  else .off

/-- The scan-out's read of one byte: addresses are reduced modulo 2^17 (R342). -/
def Memory.scanByte (m : Memory) (a : Nat) : Option Byte := Memory.read m (a % 131072)

/-- `Word(a)` at an even byte address: the byte there is the high byte (R83). -/
def Memory.readWord (m : Memory) (a : Nat) : Option Half :=
  match Memory.read m a, Memory.read m (a + 1) with
  | some h, some l => some (h ++ l)
  | _, _ => none

/-- `SAMPLE(L, p)` of R342, for `L < LINECOUNT` and `p < LEN`. -/
def sample (r : ScanRegs) (m : Memory) (line p : Nat) : Sample :=
  match Memory.scanByte m (r.base + 3 * line), Memory.scanByte m (r.base + 3 * line + 1),
      Memory.scanByte m (r.base + 3 * line + 2) with
  | some e0, some e1, some e2 =>
    if entryPicture e0 e1 e2 ≠ 0 ∧ r.start ≤ p ∧ p < r.stop then
      match Memory.scanByte m ((entryPicture e0 e1 e2).toNat + (p - r.start) / r.pixClks) with
      | some b => .pixel (ucode r.program b)
      | none => .undef
    else
      match Memory.readWord m (2 * (((entrySelector e2).toNat * r.len + p) % 65536)) with
      | some w => .proto w
      | none => .undef
  | _, _, _ => .undef

/-- The observation of a state (R345). -/
inductive Observation where
  | off
  | undefined
  /-- the sample at each line `L < lines` and clock `p < clocks` -/
  | picture (lines clocks : Nat) (sampleAt : Nat → Nat → Sample)

/-- What the scan-out shows of a state (R345). -/
def State.observe (s : State) : Observation :=
  match s.chip.scanMode with
  | .off => .off
  | .undefined => .undefined
  | .running r => .picture r.lineCount r.len (sample r s.chip.mem)

/-- The sample a state shows at a line and a clock; none where nothing is shown there. -/
def State.shows (s : State) (line p : Nat) : Option Sample :=
  match s.chip.scanMode with
  | .running r => if line < r.lineCount ∧ p < r.len then some (sample r s.chip.mem line p) else none
  | .off | .undefined => none

/-! ## The protoline patterns after `INIT` (R348–R351) -/

/-- Word `k` of protoline 0 (R348). -/
def activeLinePattern (c : Cfg) (burstOn : Bool) (k : Nat) : Nat :=
  if k < c.syncClks then c.syncLevel
  else if k < c.burstStart then c.blankLevel
  else if k < c.burstEnd then if burstOn then c.burstLevel else c.blankLevel
  else if k < c.blankEnd then c.blankLevel
  else if k < c.activeEnd then
    match c.std with
    | .ntsc => c.blackLevel
    | .pal => c.blankLevel
  else c.blankLevel

/-- Word `k` of a vsync protoline whose two half-line pulses last `a` and `b` clocks (R349–R351). -/
def vsyncLinePattern (c : Cfg) (a b k : Nat) : Nat :=
  if k < a ∨ (c.halfLine ≤ k ∧ k < c.halfLine + b) then c.syncLevel else c.blankLevel

/-! ## The colour-burst toggle -/

/-- The frame that paints protoline 0's burst window (R353, R385). -/
def burstFrame (c : Cfg) (on : Bool) : Instr :=
  fillFrame (c.protoByte 0 + 2 * c.burstStart) c.burstLen (if on then c.burstLevel else c.blankLevel)

/-- `SET_COLOR_BURST(enable)` (R353). -/
def State.opSetColorBurst (s : State) (enable : Nat) : Run Unit :=
  if !s.cfg.valid then s.failRun .config
  else if 1 < enable then s.failRun .range
  else (s.drainAndSend (burstFrame s.cfg (enable == 1))).andThen fun _ t => .ok () (t.setBurstOn (enable == 1))

/-- The meaning of `SET_COLOR_BURST` (R353). -/
def execSetColorBurst (enable : Nat) (s : State) : Host.Outcome State Fault Refusal :=
  finishCode (s.beginOp.opSetColorBurst enable)

end Sys2Proof.Machine
end

