-- ==== Sys2Proof/Machine/Init.lean ====
section
/-! DEFINITION. The initialisation sequence and the host op `INIT` (spec/45_init.md). -/

namespace Sys2Proof.Machine

/-- Steps 1 and 2 (R381). -/
def initStart (c : Cfg) : List Instr :=
  [.multiic (BitVec.ofNat 8 c.multiicOff), .wrsr 0x40, .picstart (BitVec.ofNat 16 c.picStart),
   .picend (BitVec.ofNat 16 c.picEnd), .vdctrl1 Cfg.vdctrl1Value]

/-- Steps 4 and 5 (R383). -/
def initTable (c : Cfg) : List Instr :=
  [.linelen (BitVec.ofNat 16 c.lineLen), .program (BitVec.ofNat 32 c.programWord),
   .indexstart (BitVec.ofNat 32 c.indexStart)] ++
  (List.range c.totalLines).map fun line => entryFrame (c.entryAddr line) [0, 0, 0]

/-- Step 6, the template of protoline 0 (R384): the black level for NTSC only. -/
def initTemplate (c : Cfg) : List Instr :=
  [fillFrame (c.protoByte 0) c.lineLen c.blankLevel, fillFrame (c.protoByte 0) c.syncClks c.syncLevel] ++
  match c.std with
  | .pal => []
  | .ntsc => [fillFrame (c.protoByte 0 + 2 * c.blankEnd) (c.activeEnd - c.blankEnd) c.blackLevel]

/-- A vsync protoline (R387, R388): the line blank, then its two pulses. -/
def initVsync (c : Cfg) (n a b : Nat) : List Instr :=
  [fillFrame (c.protoByte n) c.lineLen c.blankLevel, fillFrame (c.protoByte n) a c.syncLevel,
   fillFrame (c.protoByte n + 2 * c.halfLine) b c.syncLevel]

/-- Step 7 (R387, R389): protolines 1 and 2, and for PAL protoline 3. -/
def initProtolines (c : Cfg) : List Instr :=
  initVsync c 1 c.shortClks c.shortClks ++ initVsync c 2 c.longClks c.longClks ++
  match c.std with
  | .pal => initVsync c 3 c.longClks c.shortClks
  | .ntsc => []

/-- Step 8 (R390). -/
def initFrameTable (c : Cfg) : List Instr := c.frameTable.map fun e => entryFrame (c.entryAddr e.1) (encProto e.2)

/-- Step 9 (R391). -/
def initPicture (c : Cfg) : List Instr :=
  (List.range c.height).map fun r => entryFrame (c.entryAddr (c.firstPicLine + r)) (encPic (c.row r))

/-- Steps 10 and 11 (R392, R393). -/
def initEnd (c : Cfg) : List Instr :=
  [.bmc1 0 0 (BitVec.ofNat 8 (c.lpfEnable <<< 4)), .vdctrl2 c.vdctrl2Value]

/-- The sequence up to and with the colour burst (R381–R385), after which `BURST_ON <- 1` (R386). -/
def initBefore (c : Cfg) : List Instr :=
  initStart c ++ [zeroFrame 0 131072] ++ initTable c ++ initTemplate c ++ [burstFrame c true]

/-- The rest of the sequence (R387–R393). -/
def initAfter (c : Cfg) : List Instr :=
  initProtolines c ++ initFrameTable c ++ initPicture c ++ initEnd c

/-- The whole sequence of `INIT` (R381–R393). -/
def initFrames (c : Cfg) : List Instr := initBefore c ++ initAfter c

/-- `INIT()` (R380). -/
def State.opInit (s : State) : Run Unit :=
  if !s.cfg.valid then s.failRun .config
  else s.drain.andThen fun _ t =>
    (State.emitAll (initBefore t.cfg) t).andThen fun _ u =>
      State.emitAll (initAfter u.cfg) (u.setBurstOn true)

/-- The meaning of `INIT` (R380). -/
def execInit (s : State) : Host.Outcome State Fault Refusal := finishCode s.beginOp.opInit

end Sys2Proof.Machine
end

