-- ==== Sys2Proof/Machine/Dispatch.lean ====
section
/-! DEFINITION. `exec`: one arm for each instruction, each the direct call of its meaning. -/

namespace Sys2Proof.Machine

def exec (i : Instr) (s : State) : Host.Outcome State Fault Refusal :=
  match i with
  | .multiic d => Sys2Proof.Machine.execMultiic d s
  | .wrsr d => Sys2Proof.Machine.execWrsr d s
  | .write a data => Sys2Proof.Machine.execWrite a data s
  | .read a filler => Sys2Proof.Machine.execRead a filler s
  | .picstart v => Sys2Proof.Machine.execPicstart v s
  | .picend v => Sys2Proof.Machine.execPicend v s
  | .linelen v => Sys2Proof.Machine.execLinelen v s
  | .vdctrl1 v => Sys2Proof.Machine.execVdctrl1 v s
  | .indexstart v => Sys2Proof.Machine.execIndexstart v s
  | .vdctrl2 v => Sys2Proof.Machine.execVdctrl2 v s
  | .program v => Sys2Proof.Machine.execProgram v s
  | .bmc1 srcW dstW flags => Sys2Proof.Machine.execBmc1 srcW dstW flags s
  | .bmc2 stride width hm1 => Sys2Proof.Machine.execBmc2 stride width hm1 s
  | .bmstart => Sys2Proof.Machine.execBmstart s
  | .bmstatus _ _ => Sys2Proof.Machine.execBmstatus s
  | .init => Sys2Proof.Machine.execInit s
  | .protolineAddress n => Sys2Proof.Machine.execProtolineAddress n s
  | .pictureLineAddress n => Sys2Proof.Machine.execPictureLineAddress n s
  | .pixelAddress x y => Sys2Proof.Machine.execPixelAddress x y s
  | .writeIndexEntry line kind value => Sys2Proof.Machine.execWriteIndexEntry line kind value s
  | .fillProtoline n offset count value => Sys2Proof.Machine.execFillProtoline n offset count value s
  | .setColorBurst enable => Sys2Proof.Machine.execSetColorBurst enable s
  | .writePixel x y color => Sys2Proof.Machine.execWritePixel x y color s
  | .readPixel x y => Sys2Proof.Machine.execReadPixel x y s
  | .writeByte a d => Sys2Proof.Machine.execWriteByte a d s
  | .writeWord w v => Sys2Proof.Machine.execWriteWord w v s
  | .readByte a => Sys2Proof.Machine.execReadByte a s
  | .blit src dst width height stride => Sys2Proof.Machine.execBlit src dst width height stride s
  | .blitSplit src dst width height stride => Sys2Proof.Machine.execBlitSplit src dst width height stride s
  | .waitIdle => Sys2Proof.Machine.execWaitIdle s
  | .readStatus => Sys2Proof.Machine.execReadStatus s

end Sys2Proof.Machine
end

