-- ==== Sys2Proof/Machine/Fetch.lean ====
section
/-! DEFINITION. How an instruction reaches the machine. There is no program counter and no instruction fetch
(spec/10_state.md R32): what the outside sends next stands first in `inputs` (log entry 11). -/

namespace Sys2Proof.Machine

/-- What the machine does next. -/
inductive Fetched where
  /-- run this instruction in this state -/
  | run (i : Instr) (s : State)
  /-- no instruction: the step is over, in this state -/
  | settled (s : State)
  /-- the step stops -/
  | fault (r : Fault)
  /-- the step is refused -/
  | refused (r : Refusal)

/-- A request: a call is decoded by its code; a frame is transferred and then decoded (R190), and a frame that decodes
to no instruction is a fault of the record. A frame of no bytes is no frame and does nothing (R192). -/
def State.fetchRequest (s : State) : Request → Fetched
  | .frame bytes =>
    let t := s.transfer bytes
    match decodeFrame s.cfg.opmap bytes with
    | .instr i => .run i t
    | .unknownOpcode b0 => .settled (t.rejectFrame .unknownOpcode b0 bytes.tail)
    | .frameLength b0 => .settled (t.rejectFrame .frameLength b0 bytes.tail)
    | .noFrame | .unknownHostOp _ | .callArity _ => .settled s
  | .call code args =>
    match decodeCall code args with
    | .instr i => .run i s
    | .callArity c => .fault (.callArity c)
    | .unknownHostOp c => .refused (.unknownHostOp c)
    | .noFrame | .unknownOpcode _ | .frameLength _ => .settled s

/-- What the next step does: a `HOST_RESET` that is due comes first; with nothing from outside the block is idle and
the engine alone goes on (R410, R500); else the first input is taken. -/
def State.fetch (s : State) : Fetched :=
  match s.hostResetIn with
  | some 0 => .settled s.hostReset
  | _ =>
    match s.inputs with
    | [] => .settled (s.engineGap false)
    | .request r :: rest => State.fetchRequest { s with inputs := rest } r
    | .hostReset 0 :: rest => .settled (State.hostReset { s with inputs := rest })
    | .hostReset (k + 1) :: rest => .settled { s with inputs := rest, hostResetIn := some (k + 1) }
    | .powerOn :: rest => .settled (State.powerOn { s with inputs := rest })

/-- `s` with a table word's instruction as its next and only input, and no reset on its way before it. -/
def State.withRequest (s : State) (r : Request) : State :=
  { s with inputs := [.request r], hostResetIn := none }

end Sys2Proof.Machine
end

