-- ==== Sys2Proof/Machine/Step.lean ====
section
/-! DEFINITION. One step of the machine: take what comes next and run it. -/

namespace Sys2Proof.Machine

/-- One step: the next instruction from outside is run by `exec`; a step without one, a stop and a refusal are
`State.fetch`'s. -/
def step (s : State) : Host.Outcome State Fault Refusal :=
  match s.fetch with
  | .run i t => exec i t
  | .settled t => .next t
  | .fault r => .fault r
  | .refused r => .refused r

/-- `s` with the instruction of a table word where `step` takes its next one. -/
def State.withFetchWord (s : State) (nbits w : Nat) : State := s.withRequest (tableRequest nbits w)

end Sys2Proof.Machine
end

