-- ==== Sys2Proof/Safety.lean ====
section
/-! DEFINITION. The terms claims are made in: when a run ends well (spec/70_reset_and_hazards.md R530), which states
the rules for memory frames and for host ops speak of, what a state holds once the running move is done, and the
invariants of the machine. -/

namespace Sys2Proof

/-- The polls of every wait suffice, whatever the engine's delays: there is no limit, or it is above R410's bound. -/
def Cfg.pollsSuffice (c : Cfg) : Prop :=
  match c.busyPollLimit, c.enginePollBound with
  | none, _ => True
  | some n, some k => k < n
  | some _, none => False

end Sys2Proof

namespace Sys2Proof.Machine

/-! ## How a run ends (R345, R530) -/

/-- No move runs and none is pending (R345). -/
def State.quiescent (s : State) : Prop := s.chip.busy = false ∧ s.block.movePending = false

/-- A successful end of a run (R530): the last host op has returned, no fault is recorded, and no error was returned
unless the run is a test of an error. The spec does not say whether an end meets the first condition where no host op
has been called since `RESET`, or where the last event is a `HOST_RESET` after a host op that had returned; here neither
does, since `result` is `none` in both (DESIGN CHOICE, log entry 24). -/
def State.successful (s : State) (errorTest : Bool) : Prop :=
  s.result ≠ none ∧ s.faults = [] ∧ (errorTest = true ∨ s.block.firstErr = .ok)

/-- A settled end state of a run (R530), with the choice of `State.successful` (log entry 24). -/
def State.settled (s : State) (errorTest : Bool) : Prop := s.successful errorTest ∧ s.quiescent

/-! ## What the rules take as given -/

/-- The chip's settings for a memory frame (R194, R195): sequential mode, multi-chip addressing off. -/
def State.memoryModeSet (s : State) : Prop :=
  s.chip.mode = some 1 ∧ s.chip.multiic.map BitVec.toNat = some s.cfg.multiicOff

/-- How many more status polls can see `BUSY = 1` for the running move: as many as its delay, and no more than R410's
bound leaves. -/
def State.pollsLeft (s : State) : Nat :=
  match s.cfg.enginePollBound with
  | none => s.delay
  | some k => min s.delay (k - s.busyPolls)

/-- The polls of a wait suffice (R410, R427): no move runs, or the move is over before the last poll. -/
def State.waitEnds (s : State) : Prop := s.chip.busy = true → s.pollsLeft < s.pollLimit

/-- A drain succeeds (R428): no move runs and none is pending, or one is pending and the wait for it ends. -/
def State.drains (s : State) : Prop :=
  (s.block.movePending = false ∧ s.chip.busy = false) ∨ (s.block.movePending = true ∧ s.waitEnds)

/-- A host op that touches the SRAM runs to its end: the configuration is valid, the chip is set for memory frames, the
drain succeeds, and no `HOST_RESET` is on its way. -/
def State.hostReady (s : State) : Prop :=
  s.cfg.valid = true ∧ s.memoryModeSet ∧ s.drains ∧ s.hostResetIn = none

/-! ## What a state holds -/

/-- The SRAM once the running move, if there is one, has completed (R413). -/
def State.settledMem (s : State) : Memory := if s.chip.busy then s.complete.chip.mem else s.chip.mem

/-- The chip's registers, without the SRAM and the two bits `BUSY` and `SELECT`. -/
def Chip.registers (c : Chip) : Chip := { c with mem := [], busy := false, select := false }

/-- The chip's registers that no block move concerns: all but `BMC1`, `BMC2` and the active move registers. -/
def Chip.otherRegisters (c : Chip) : Chip := { c.registers with bmc1 := none, bmc2 := none, active := none }

/-- `t` has every chip register, the fault record and the configuration of `s`. -/
def State.sameRegisters (s t : State) : Prop :=
  t.chip.registers = s.chip.registers ∧ t.faults = s.faults ∧ t.cfg = s.cfg

/-- `t` is `s` but for what a frame's transfer yields: the response and the count of draws. -/
def State.sameMachine (s t : State) : Prop :=
  t.cfg = s.cfg ∧ t.chip = s.chip ∧ t.block = s.block ∧ t.faults = s.faults

/-- The memory `m'` is `m` with the bytes `bs` stored from address `a` on, and nothing else changed. -/
def Memory.storesAt (m m' : Memory) (a : Nat) (bs : List Byte) : Prop :=
  ∀ x, Memory.read m' x = if a ≤ x ∧ x < a + bs.length then bs[x - a]? else Memory.read m x

/-- The effect of a host op that stores `bs` at `a` and succeeds: the bytes are stored, in the SRAM as the drained move
left it; every other byte and every register is as before; no move runs; the last frame sent is the `WRITE` of the bytes;
`E_OK` is returned. -/
def State.storedBy (s t : State) (a : Nat) (bs : List Byte) : Prop :=
  Memory.storesAt s.settledMem t.chip.mem a bs ∧ s.sameRegisters t ∧ t.chip.busy = false ∧
  t.sent.getLast? = some (s.cfg.opmap.write :: (addr24 (BitVec.ofNat 24 a) ++ bs)) ∧ t.result = some (.code .ok)

/-- The block layer after a host op has failed with this error: `FIRST_ERR` keeps the first, and nothing else of it has
changed (R463). -/
def Block.failed (b : Block) (e : Err) : Block := { b with firstErr := if b.firstErr = .ok then e else b.firstErr }

/-- The effect of a host op that fails before any frame: `FIRST_ERR` keeps the first error, and nothing else of the
machine changes (R463, R464). -/
def State.failedBy (s t : State) (e : Err) : Prop :=
  t.cfg = s.cfg ∧ t.chip = s.chip ∧ t.faults = s.faults ∧ t.sent = [] ∧
  t.block = s.block.failed e

/-- The host op fails with this error before any frame, and returns the code, with value 0 where it returns a value
(R461, R463, R464). -/
def State.refusesWith (s : State) (i : Instr) (e : Err) : Prop :=
  ∃ t, exec i s = .next t ∧ s.failedBy t e ∧ (t.result = some (.code e) ∨ t.result = some (.value e 0))

/-- The host op waits for `n` polls in vain (R427, R464): it sends just those `BMSTATUS` frames and fails with
`E_TIMEOUT`, with value 0 where it returns a value; the move runs on, and every byte, every register and the fault record
are as before. -/
def State.timesOut (s : State) (i : Instr) (n : Nat) : Prop :=
  ∃ t, exec i s = .next t ∧ (t.result = some (.code .timeout) ∨ t.result = some (.value .timeout 0)) ∧
    t.sent = List.replicate n [s.cfg.opmap.bmstatus, 0, 0] ∧ t.chip.busy = true ∧ t.chip.mem = s.chip.mem ∧
    s.sameRegisters t ∧ t.block = s.block.failed .timeout

/-- The fault record with an entry added: a set, so an entry it holds already is not added again (R55, R467). -/
def withFault (l : List FaultEntry) (e : FaultEntry) : List FaultEntry := if e ∈ l then l else l ++ [e]

/-- A frame's fault is precise (R469). `t` is what the frame makes of `s`, and `u` what it makes of `s` with an empty fault
record: where `u` has an entry, the frame has raised that fault, and of the chip, the block and the configuration nothing
but the record has changed; where `u` has none, the record is as it was. -/
def State.faultIsPrecise (s t u : State) : Prop :=
  (u.faults = [] → t.faults = s.faults) ∧
  (u.faults ≠ [] →
    (∃ e, u.faults = [e] ∧ t.faults = withFault s.faults e) ∧ t.chip = s.chip ∧ t.block = s.block ∧ t.cfg = s.cfg)

/-- The memory `m'` holds a rectangle's bytes moved as if all of it were read first: byte `c` of row `r` of the
destination is what the source's was in `m`, and every other byte is as in `m` (R415, R422). -/
def Memory.movedRect (m m' : Memory) (src dst w h stride : Nat) : Prop :=
  (∀ r c, r < h → c < w →
    Memory.read m' (dst + r * stride + c) = Memory.read m (src + r * stride + c)) ∧
  ∀ x, (∀ r c, r < h → c < w → x ≠ dst + r * stride + c) → Memory.read m' x = Memory.read m x

/-- A move with these addresses and this span stays inside the SRAM (R213, check 3). -/
def moveInside (descends : Bool) (src dst span : Nat) : Prop :=
  if descends then span ≤ src ∧ span ≤ dst else src + span ≤ 0x1FFFF ∧ dst + span ≤ 0x1FFFF

/-- `OVERLAP1(s, d, H, S)` in the words of R213: some integer `k` with `|k| < H` gives `|d − s − k·S| = 1`. -/
def overlapsByOne (s d h stride : Nat) : Prop :=
  ∃ k : Int, |k| < (h : Int) ∧ |(d : Int) - s - k * stride| = 1

end Sys2Proof.Machine

namespace Sys2Proof

open Machine

/-! ## Which host ops pass their checks -/

/-- The host op is one that stores to the SRAM from address `a` on and changes nothing else, and its arguments pass its
checks (R171, R172, R301, R302, R303). -/
def Cfg.storesAt (c : Cfg) (i : Instr) (a : Nat) : Prop :=
  (∃ d, i = .writeByte a d ∧ a < 131072 ∧ d < 256) ∨
  (∃ w v, i = .writeWord w v ∧ a = 2 * w ∧ w < 65536 ∧ v < 65536) ∨
  (∃ line kind value, i = .writeIndexEntry line kind value ∧ a = c.entryAddr line ∧ line < c.totalLines ∧
    (kind = 0 ∧ value < c.numProtolines ∨ kind = 1 ∧ 0 < value ∧ value + c.width ≤ 131072)) ∨
  (∃ n offset count v, i = .fillProtoline n offset count v ∧ a = c.protoByte n + 2 * offset ∧ n < c.numProtolines ∧
    0 < count ∧ offset + count ≤ c.lineLen ∧ v < 65536) ∨
  ∃ x y color, i = .writePixel x y color ∧ a = c.pix x y ∧ x < c.width ∧ y < c.height ∧ color < 256

/-- The host op is one that reads the byte at `a`, and its arguments pass its checks (R173, R304). -/
def Cfg.readsAt (c : Cfg) (i : Instr) (a : Nat) : Prop :=
  (i = .readByte a ∧ a < 131072) ∨ ∃ x y, i = .readPixel x y ∧ a = c.pix x y ∧ x < c.width ∧ y < c.height

/-- The move a `BLIT` asks for passes R420's checks. -/
def Cfg.acceptsMove (c : Cfg) (src dst w h stride : Nat) : Prop :=
  0 < h ∧ h ≤ 256 ∧ stride ≤ 65535 ∧ (h = 1 ∨ w ≤ stride) ∧
  src + (h - 1) * stride + w ≤ 131072 ∧ dst + (h - 1) * stride + w ≤ 131072 ∧
  c.bmMinWidth ≤ w ∧ w ≤ c.bmMaxWidth ∧ ¬ overlapsByOne src dst h stride

/-- The rectangle a `BLIT_SPLIT` asks for passes R426's checks. -/
def Cfg.acceptsSplit (c : Cfg) (src dst w h stride : Nat) : Prop :=
  0 < h ∧ h ≤ 256 ∧ stride ≤ 65535 ∧ w ≤ 65535 ∧ (h = 1 ∨ w ≤ stride) ∧
  src + (h - 1) * stride + w ≤ 131072 ∧ dst + (h - 1) * stride + w ≤ 131072 ∧
  c.bmMinWidth ≤ w ∧ ¬ overlapsByOne src dst h stride ∧
  c.bmMinWidth ≤ w / ((w + c.bmMaxWidth - 1) / c.bmMaxWidth)

end Sys2Proof

namespace Sys2Proof.Machine

/-! ## How a host op and a run of frames end -/

/-- A block move's wait of `n` polls was in vain (R420, R464): the op has sent `BMC1`, `BMC2` and those polls, no
`BMSTART`, and failed with `E_TIMEOUT`. The old move runs on; no byte, no register but the shadow fields and the live
filter flag, and no fault entry has changed. -/
def State.moveTimesOut (s t : State) (n : Nat) : Prop :=
  t.result = some (.code .timeout) ∧
  t.sent.map List.head? =
    some s.cfg.opmap.bmc1 :: some s.cfg.opmap.bmc2 :: List.replicate n (some s.cfg.opmap.bmstatus) ∧
  t.chip.busy = true ∧ t.chip.active = s.chip.active ∧ t.chip.mem = s.chip.mem ∧
  t.chip.otherRegisters = s.chip.otherRegisters ∧ t.faults = s.faults ∧ t.cfg = s.cfg ∧
  t.block = s.block.failed .timeout

/-- The error code a host op returned: `E_OK` for one that returns none, `READ_STATUS` (R461). -/
def HostResult.err : HostResult → Err
  | .code e => e
  | .value e _ => e
  | .status _ _ _ _ => .ok

/-- What a list of frames does to the machine when the chip is sent one after the other, the engine having its chance
before each (R102, R190, R410). -/
def State.replay (frames : List (List Byte)) (s : State) : State :=
  frames.foldl (fun u bytes => (u.transfer bytes).portFrame bytes) s

/-! ## What `INIT` leaves -/

/-- The value protoline `n` holds at word `k` after `INIT`, with the burst on (R348–R351). -/
def protolineValue (c : Cfg) (n k : Nat) : Nat :=
  if n = 0 then activeLinePattern c true k
  else if n = 1 then vsyncLinePattern c c.shortClks c.shortClks k
  else if n = 2 then vsyncLinePattern c c.longClks c.longClks k
  else vsyncLinePattern c c.longClks c.shortClks k

/-- The protoline of a line that the frame table names, 0 for any other line (R308). -/
def lineProtoline (c : Cfg) (line : Nat) : Nat :=
  ((c.frameTable.find? fun e => e.1 == line).map Prod.snd).getD 0

/-- The line shows a picture row (R260). -/
def isPictureLine (c : Cfg) (line : Nat) : Prop :=
  c.firstPicLine ≤ line ∧ line < c.firstPicLine + c.height

/-- The video registers `INIT` programs (R261), as the scan-out reads them. -/
def initScanRegs (c : Cfg) : ScanRegs where
  start := c.picStart
  stop := c.picEnd
  len := c.lineLen
  base := c.indexStart
  lineCount := c.totalLines
  pixClks := c.pixelClks
  program := BitVec.ofNat 32 c.programWord

/-- The picture is shown: the scan-out runs with the registers `INIT` programs, and the index entry of every picture
line names that row (R308, R354). -/
def State.displaysPicture (s : State) : Prop :=
  s.chip.scanMode = .running (initScanRegs s.cfg) ∧
  ∀ y i, y < s.cfg.height → i < 3 →
    Memory.read s.settledMem (s.cfg.entryAddr (s.cfg.firstPicLine + y) + i) = (encPic (s.cfg.row y))[i]?

/-! ## Invariants -/

/-- The byte at an offset from either end lies inside the SRAM for every byte of the move (R100, R213). -/
def ActiveMove.fits (v : ActiveMove) : Prop :=
  ∀ o ∈ v.offsets,
    if v.dir then o ≤ v.src.toNat ∧ o ≤ v.dst.toNat
    else v.src.toNat + o < 131072 ∧ v.dst.toNat + o < 131072

/-- A running move has its latched parameters, and no byte of it leaves the SRAM (R47, R213, R413). -/
def State.moveLatched (s : State) : Prop := s.chip.busy = true → ∃ v, s.chip.active = some v ∧ v.fits

/-- No more `BMSTATUS` frames have seen `BUSY = 1` for the running move than R410's bound allows. -/
def State.pollsBounded (s : State) : Prop :=
  ∀ k, s.cfg.enginePollBound = some k → s.chip.busy = true → s.busyPolls ≤ k

/-- What every step keeps: the SRAM's canonical form, select deasserted between frames (R34, R161), a memory mode that
is unset or sequential (R201), a `MULTIIC` that is unset or off (R200), a latched move, R410's bound, and a fault record
without repeats (R55). -/
def State.inv (s : State) : Prop :=
  Memory.wf s.chip.mem ∧ s.chip.select = false ∧ (s.chip.mode = none ∨ s.chip.mode = some 1) ∧
  (s.chip.multiic = none ∨ s.chip.multiic.map BitVec.toNat = some s.cfg.multiicOff) ∧
  s.moveLatched ∧ s.pollsBounded ∧ s.faults.Nodup

/-- Every byte of the SRAM has been written (R96: "After `INIT` step 3, no byte is `⊥`"). -/
def Memory.full (m : Memory) : Prop := ∀ a, a < 131072 → (Memory.read m a).isSome

/-- The block has been initialised and the host has used host ops only since (R466, R504): the configuration is valid,
the chip is set for memory frames, every byte has been written, and a running move is one the block knows of. -/
def State.initialised (s : State) : Prop :=
  s.cfg.valid = true ∧ s.memoryModeSet ∧ Memory.full s.chip.mem ∧ (s.chip.busy = true → s.block.movePending = true)

end Sys2Proof.Machine
end

