-- ==== Sys2Proof/Certificates/Slice0/Obligations.lean ====
section
/-! DEFINITION. The statements about the model, for the provers. Each docstring names the rules of spec/ it rests on,
and, where a clause rests on a choice of the model, the log entry. -/

open Sys2Proof Sys2Proof.Machine

/-! ## The register commands of the chip -/

/-- `MULTIIC` writes its register for `MULTIIC_OFF` and raises `F_MULTIIC` for any other value (R200). `WRSR` selects
sequential mode with 0x40, raises `F_RESERVED` where `d[5:0]` is not 0, and else `F_MODE` (R201). Nothing else changes
but the drawn response, in any state, a running move included. -/
def Obligations.ModeCommandsWriteOrRefuse : Prop :=
  ∀ (s : State) (d : Byte),
    (d.toNat = s.cfg.multiicOff →
      exec (.multiic d) s = .next ((s.setChip { s.chip with multiic := some d }).respondDraws 2)) ∧
    (d.toNat ≠ s.cfg.multiicOff →
      exec (.multiic d) s = .next ((s.raise .multiic s.cfg.opmap.multiic none).respondDraws 2)) ∧
    (d.toNat = 0x40 →
      exec (.wrsr d) s = .next ((s.setChip { s.chip with mode := some 1 }).respondDraws 2)) ∧
    (d.toNat % 64 ≠ 0 →
      exec (.wrsr d) s = .next ((s.raise .reserved s.cfg.opmap.wrsr none).respondDraws 2)) ∧
    (d.toNat % 64 = 0 → d.toNat / 64 ≠ 1 →
      exec (.wrsr d) s = .next ((s.raise .mode s.cfg.opmap.wrsr none).respondDraws 2))

/-- `PICSTART`, `PICEND` and `LINELEN` write their 12-bit field and nothing else where v[15:12] is 0, and raise
`F_RESERVED` and change nothing else where it is not (R202, R203, R207, R198). -/
def Obligations.PictureWindowAndLineLengthWrites : Prop :=
  ∀ (s : State) (v : Half),
    (v.toNat < 4096 →
      exec (.picstart v) s =
        .next ((s.setChip { s.chip with picstart := some (BitVec.ofNat 12 v.toNat) }).respondDraws 3) ∧
      exec (.picend v) s =
        .next ((s.setChip { s.chip with picend := some (BitVec.ofNat 12 v.toNat) }).respondDraws 3) ∧
      exec (.linelen v) s =
        .next ((s.setChip { s.chip with linelen := some (BitVec.ofNat 12 v.toNat) }).respondDraws 3)) ∧
    (4096 ≤ v.toNat →
      exec (.picstart v) s = .next ((s.raise .reserved s.cfg.opmap.picstart none).respondDraws 3) ∧
      exec (.picend v) s = .next ((s.raise .reserved s.cfg.opmap.picend none).respondDraws 3) ∧
      exec (.linelen v) s = .next ((s.raise .reserved s.cfg.opmap.linelen none).respondDraws 3))

/-- `VDCTRL1` writes its two bits where every other bit is 0 and raises `F_RESERVED` where one is not (R204, R198);
`VDCTRL2` writes its four fields, whatever the value (R210). Nothing else changes but the drawn response. -/
def Obligations.VideoControlWrites : Prop :=
  ∀ (s : State) (v : Half),
    (v.toNat < 16384 ∧ v.toNat % 4096 = 0 →
      exec (.vdctrl1 v) s = .next ((s.setChip { s.chip with
        vdctrl1 := some ⟨decide (v.toNat / 4096 % 2 = 1), decide (v.toNat / 8192 % 2 = 1)⟩ }).respondDraws 3)) ∧
    (16384 ≤ v.toNat ∨ v.toNat % 4096 ≠ 0 →
      exec (.vdctrl1 v) s = .next ((s.raise .reserved s.cfg.opmap.vdctrl1 none).respondDraws 3)) ∧
    exec (.vdctrl2 v) s = .next ((s.setChip { s.chip with
      enable := decide (32768 ≤ v.toNat)
      videoForm := some ⟨BitVec.ofNat 10 v.toNat, BitVec.ofNat 4 (v.toNat / 1024),
        decide (v.toNat / 16384 % 2 = 1)⟩ }).respondDraws 3)

/-- `INDEXSTART` writes its 17-bit base where v[31:17] is 0 and raises `F_RESERVED` where it is not (R209, R198);
`PROGRAM` takes any 32-bit value (R208). Nothing else changes but the drawn response. -/
def Obligations.IndexBaseAndProgramWrites : Prop :=
  ∀ (s : State) (v : Word),
    (v.toNat < 131072 →
      exec (.indexstart v) s =
        .next ((s.setChip { s.chip with indexstart := some (BitVec.ofNat 17 v.toNat) }).respondDraws 5)) ∧
    (131072 ≤ v.toNat →
      exec (.indexstart v) s = .next ((s.raise .reserved s.cfg.opmap.indexstart none).respondDraws 5)) ∧
    exec (.program v) s = .next ((s.setChip { s.chip with program := some v }).respondDraws 5)

/-- `BMC1` writes the shadow addresses, the direction, the two parities and the live filter flag where f[3] and f[7:5]
are 0, and raises `F_RESERVED` where they are not (R211); `BMC2` writes its three shadow fields, whatever the value
(R212). A running move is unchanged, in any state (R199). -/
def Obligations.MoveParameterWrites : Prop :=
  ∀ (s : State) (srcW dstW stride : Half) (f width hm1 : Byte),
    (f.toNat < 32 ∧ f.toNat / 8 % 2 = 0 →
      exec (.bmc1 srcW dstW f) s = .next ((s.setChip { s.chip with
        bmc1 := some
          { srcW := srcW, dstW := dstW, dir := decide (f.toNat % 2 = 1), dstOdd := decide (f.toNat / 2 % 2 = 1),
            srcOdd := decide (f.toNat / 4 % 2 = 1), lpf := decide (f.toNat / 16 % 2 = 1) } }).respondDraws 6)) ∧
    (32 ≤ f.toNat ∨ f.toNat / 8 % 2 = 1 →
      exec (.bmc1 srcW dstW f) s = .next ((s.raise .reserved s.cfg.opmap.bmc1 none).respondDraws 6)) ∧
    exec (.bmc2 stride width hm1) s = .next ((s.setChip { s.chip with
      bmc2 := some { stride := stride, width := width, hm1 := hm1 } }).respondDraws 5)

/-! ## The memory commands of the chip -/

/-- A `WRITE` frame whose checks pass stores its bytes at ascending addresses; every other byte, and every piece of
state but the SRAM and the drawn response, is as before (R205, R86). -/
def Obligations.WriteFrameStoresItsBytes : Prop :=
  ∀ (s : State) (a : BitVec 24) (data : List Byte),
    s.memoryModeSet → s.chip.busy = false → data ≠ [] → a.toNat + data.length ≤ 131072 →
    ∃ t, exec (.write a data) s = .next t ∧ Memory.storesAt s.chip.mem t.chip.mem a.toNat data ∧
      t = (s.setMem t.chip.mem).respondDraws (4 + data.length)

/-- A `READ` frame whose checks pass answers the bytes of the SRAM from its fifth response byte on and changes no state
but the response. A byte that is `⊥` makes it record `F_UNWRITTEN_READ` with the first such address, and the other bytes
are still the data (R206, R468, R94). -/
def Obligations.ReadFrameAnswersTheBytes : Prop :=
  ∀ (s : State) (a : BitVec 24) (filler : List Byte),
    s.memoryModeSet → s.chip.busy = false → filler ≠ [] → a.toNat + filler.length ≤ 131072 →
    ∃ t, exec (.read a filler) s = .next t ∧ t.response.length = 4 + filler.length ∧
      (∀ i b, i < filler.length → Memory.read s.chip.mem (a.toNat + i) = some b → t.response[4 + i]? = some b) ∧
      ((∀ i, i < filler.length → (Memory.read s.chip.mem (a.toNat + i)).isSome) → t = s.respond t.response) ∧
      (∀ u, u < filler.length → Memory.read s.chip.mem (a.toNat + u) = none →
        (∀ i, i < u → (Memory.read s.chip.mem (a.toNat + i)).isSome) →
        t = (s.raise .unwrittenRead s.cfg.opmap.read (some (a.toNat + u))).respond t.response)

/-- A `WRITE` or `READ` frame raises `F_MODE`, `F_MULTIIC`, `F_BUSY_ACCESS` or `F_ADDR`, the first in this order whose
condition holds, records its address, and has no other effect (R194–R197). -/
def Obligations.MemoryFrameChecksInOrder : Prop :=
  ∀ (s : State) (a : BitVec 24) (data : List Byte) (f : ChipFault), data ≠ [] →
    (if s.chip.mode ≠ some 1 then f = .mode
     else if s.chip.multiic.map BitVec.toNat ≠ some s.cfg.multiicOff then f = .multiic
     else if s.chip.busy then f = .busyAccess
     else f = .addr ∧ (131072 ≤ a.toNat ∨ 131072 < a.toNat + data.length)) →
    exec (.write a data) s =
      .next ((s.raise f s.cfg.opmap.write (some a.toNat)).respondDraws (4 + data.length)) ∧
    exec (.read a data) s =
      .next ((s.raise f s.cfg.opmap.read (some a.toNat)).respondDraws (4 + data.length))

/-! ## Block moves at the chip -/

/-- A `BMSTART` that passes R213's checks latches the shadow fields into the active move registers and sets `BUSY`;
the SRAM, the shadow fields and everything else stay (R213, R47). -/
def Obligations.MoveStartLatchesParameters : Prop :=
  ∀ (s : State) (p : Bmc1) (q : Bmc2) (src dst w h stride : Nat),
    s.chip.busy = false → s.chip.bmc1 = some p → s.chip.bmc2 = some q →
    src = 2 * p.srcW.toNat + p.srcOdd.toNat → dst = 2 * p.dstW.toNat + p.dstOdd.toNat →
    w = q.width.toNat → h = q.hm1.toNat + 1 → stride = q.stride.toNat → 1 ≤ w →
    moveInside p.dir src dst ((h - 1) * stride + (w - 1)) →
    s.cfg.bmMinWidth ≤ w → w ≤ s.cfg.bmMaxWidth → ¬ overlapsByOne src dst h stride →
    ∃ t, exec .bmstart s = .next t ∧
      t.chip = { s.chip with
        active := some
          { src := BitVec.ofNat 17 src, dst := BitVec.ofNat 17 dst, dir := p.dir, stride := q.stride,
            width := q.width, height := BitVec.ofNat 9 h }
        busy := true } ∧
      t.block = s.block ∧ t.faults = s.faults ∧ t.cfg = s.cfg ∧ t.response.length = 1

/-- A `BMSTART` raises the first fault of R213's order and has no other effect: `F_BUSY_START`, `F_BM_PARAMS`,
`F_BM_RANGE`, `F_BM_UNRELIABLE` (R213). The entry of each names the source address `s`, or none where `BMC1` is `⊥`
(R468). That `s` is read from `BMC1` for a `BMSTART` that has latched nothing, in particular for `F_BUSY_START`, whose
vector B3.38 shows none, is the model's reading (DEDUCED, log entry 4). -/
def Obligations.MoveStartChecksInOrder : Prop :=
  ∀ (s : State) (f : ChipFault),
    (if s.chip.busy then f = .busyStart
     else match s.chip.bmc1, s.chip.bmc2 with
      | some p, some q =>
        ∃ src dst w h stride,
          src = 2 * p.srcW.toNat + p.srcOdd.toNat ∧ dst = 2 * p.dstW.toNat + p.dstOdd.toNat ∧
          w = q.width.toNat ∧ h = q.hm1.toNat + 1 ∧ stride = q.stride.toNat ∧
          ((w = 0 ∧ f = .bmParams) ∨
            (w ≠ 0 ∧ ¬ moveInside p.dir src dst ((h - 1) * stride + (w - 1)) ∧ f = .bmRange) ∨
            (w ≠ 0 ∧ moveInside p.dir src dst ((h - 1) * stride + (w - 1)) ∧
              (w < s.cfg.bmMinWidth ∨ s.cfg.bmMaxWidth < w ∨ overlapsByOne src dst h stride) ∧ f = .bmUnreliable))
      | some _, none | none, _ => f = .bmParams) →
    exec .bmstart s = .next ((s.raise f s.cfg.opmap.bmstart
      (s.chip.bmc1.map fun p => 2 * p.srcW.toNat + p.srcOdd.toNat)).respondDraws 1)

/-- A `BMSTATUS` frame is accepted in every state, whatever its filler bytes; bit 7 of its second response byte is
`BUSY`, and no state of the machine changes (R214). -/
def Obligations.StatusFrameReportsBusy : Prop :=
  ∀ (s : State) (f1 f2 : Byte),
    ∃ t, exec (.bmstatus f1 f2) s = .next t ∧ t.response.length = 3 ∧
      t.response[1]?.map (fun r => r.getLsbD 7) = some s.chip.busy ∧
      t.chip = s.chip ∧ t.block = s.block ∧ t.faults = s.faults ∧ t.cfg = s.cfg

/-- The machine's test of `OVERLAP1` is R213's, over the integers. -/
def Obligations.OverlapTestIsTheIntegerFormula : Prop :=
  ∀ s d h stride : Nat, overlap1 s d h stride = true ↔ overlapsByOne s d h stride

/-! ## The block-move engine -/

/-- The overlap law (R415): a move inside the SRAM whose offsets rise in copy order (`A_HEIGHT = 1` or
`A_STRIDE ≥ A_WIDTH`) and whose direction is away from the overlap leaves at each destination byte what its source byte
held before the step, and every other byte as it was. -/
def Obligations.EngineOverlapLaw : Prop :=
  ∀ (v : ActiveMove) (m : Memory), v.fits → v.height = 1 ∨ v.width.toNat ≤ v.stride.toNat →
    (if v.dir then v.src.toNat ≤ v.dst.toNat else v.dst.toNat ≤ v.src.toNat) →
    (∀ o ∈ v.offsets,
      if v.dir then Memory.read (v.run m) (v.dst.toNat - o) = Memory.read m (v.src.toNat - o)
      else Memory.read (v.run m) (v.dst.toNat + o) = Memory.read m (v.src.toNat + o)) ∧
    ∀ x, (∀ o ∈ v.offsets, x ≠ if v.dir then v.dst.toNat - o else v.dst.toNat + o) →
      Memory.read (v.run m) x = Memory.read m x

/-- The engine's finite delay, the model's form of R410's fairness (log entry 6): with nothing coming from outside, a
running move is complete after as many steps as its delay and one more, and only the SRAM and `BUSY` have changed. -/
def Obligations.IdleStepsCompleteTheMove : Prop :=
  ∀ s : State, s.chip.busy = true → s.inputs = [] → s.hostResetIn = none →
    ∃ t : State, Sys2Proof.core.run (s.delay + 1) s = .next t ∧ t.chip = s.complete.chip ∧ t.block = s.block ∧
      t.faults = s.faults ∧ t.cfg = s.cfg

/-! ## Faults -/

/-- Faults are precise (R469): a frame that raises a fault adds its one entry to the fault record and changes nothing
else of the chip or the block, whether it decodes to an instruction or not; a frame that raises none leaves the record;
and the engine's completion step raises none. Whether a frame raises a fault is read from its run on the same state with
an empty record, since a record that holds the entry already does not show it. -/
def Obligations.FaultsArePrecise : Prop :=
  (∀ (i : Instr) (s t u : State), i.isFrame = true → exec i s = .next t →
    exec i { s with faults := [] } = .next u → s.faultIsPrecise t u) ∧
  (∀ (s : State) (bytes : List Byte),
    s.faultIsPrecise (s.portFrame bytes) (State.portFrame { s with faults := [] } bytes)) ∧
  ∀ s : State, s.complete.faults = s.faults

/-! ## Host ops without frames -/

/-- `READ_STATUS` answers the four pieces of block-layer state in every state, with any configuration; it sends no
frame and changes nothing (R170). -/
def Obligations.ReadStatusReportsTheBlock : Prop :=
  ∀ s : State, exec .readStatus s = .next { s with
    sent := []
    result := some (.status s.block.firstErr s.block.clipCount s.block.movePending s.block.burstOn) }

/-- With a configuration that is not valid, every host op but `READ_STATUS` returns `E_CONFIG` and sends no frame
(R8, R264). -/
def Obligations.InvalidConfigurationIsRefused : Prop :=
  ∀ (i : Instr) (s : State), s.cfg.valid = false → i.isFrame = false → i ≠ .readStatus → s.refusesWith i .config

/-- The address ops answer `n · LINE_LEN`, `PICTURE_START + n · PITCH` and `PICTURE_START + y · PITCH + x`, change
nothing and send no frame, and fail with `E_CONFIG` and `E_RANGE` where R298–R300 say. Row addresses are `PITCH` apart
(R294, R295). -/
def Obligations.AddressOpsAnswerTheFormulas : Prop :=
  ∀ (s : State) (n x y : Nat),
    (s.cfg.valid = true →
      (n < s.cfg.numProtolines →
        exec (.protolineAddress n) s = .next { s with
          sent := [], result := some (.value .ok (n * s.cfg.lineLen)) }) ∧
      (s.cfg.numProtolines ≤ n → s.refusesWith (.protolineAddress n) .range) ∧
      (n < s.cfg.height →
        exec (.pictureLineAddress n) s = .next { s with
          sent := [], result := some (.value .ok (s.cfg.pictureStart + n * (s.cfg.width + s.cfg.guard))) }) ∧
      (s.cfg.height ≤ n → s.refusesWith (.pictureLineAddress n) .range) ∧
      (x < s.cfg.width → y < s.cfg.height →
        exec (.pixelAddress x y) s = .next { s with
          sent := [], result := some (.value .ok (s.cfg.pictureStart + y * (s.cfg.width + s.cfg.guard) + x)) }) ∧
      (s.cfg.width ≤ x ∨ s.cfg.height ≤ y → s.refusesWith (.pixelAddress x y) .range)) ∧
    (s.cfg.valid = false →
      s.refusesWith (.protolineAddress n) .config ∧ s.refusesWith (.pictureLineAddress n) .config ∧
      s.refusesWith (.pixelAddress x y) .config) ∧
    s.cfg.row (n + 1) - s.cfg.row n = s.cfg.pitch

/-- The host ops that reach the SRAM fail with `E_RANGE`, before any frame, for the arguments their rules name (R171,
R172, R173, R301, R302, R303, R304, R353). A byte argument of `WRITE_BYTE` past 255 is out of its type's range by R133
(log entry 13). -/
def Obligations.OutOfRangeArgumentsAreRefused : Prop :=
  ∀ s : State, s.cfg.valid = true →
    (∀ a d, 131072 ≤ a ∨ 256 ≤ d → s.refusesWith (.writeByte a d) .range) ∧
    (∀ w v, 65536 ≤ w ∨ 65536 ≤ v → s.refusesWith (.writeWord w v) .range) ∧
    (∀ a, 131072 ≤ a → s.refusesWith (.readByte a) .range) ∧
    (∀ line kind value,
      s.cfg.totalLines ≤ line ∨ 2 ≤ kind ∨ (kind = 0 ∧ s.cfg.numProtolines ≤ value) ∨
        (kind = 1 ∧ (value = 0 ∨ 131072 < value + s.cfg.width)) →
      s.refusesWith (.writeIndexEntry line kind value) .range) ∧
    (∀ n offset count value,
      s.cfg.numProtolines ≤ n ∨ 65536 ≤ value ∨ s.cfg.lineLen < offset + count →
      s.refusesWith (.fillProtoline n offset count value) .range) ∧
    (∀ x y color, 256 ≤ color → s.refusesWith (.writePixel x y color) .range) ∧
    (∀ x y, s.cfg.width ≤ x ∨ s.cfg.height ≤ y → s.refusesWith (.readPixel x y) .range) ∧
    ∀ enable, 2 ≤ enable → s.refusesWith (.setColorBurst enable) .range

/-- A `WRITE_PIXEL` outside the picture is dropped: no frame, `E_OK`, and `CLIP_COUNT` counts it, up to 0xFFFF (R303,
R51, R462). -/
def Obligations.PixelOutsideThePictureIsCounted : Prop :=
  ∀ (s : State) (x y color : Nat), s.cfg.valid = true → color < 256 → s.cfg.width ≤ x ∨ s.cfg.height ≤ y →
    exec (.writePixel x y color) s = .next { s with
      block := { s.block with clipCount := BitVec.ofNat 16 (min (s.block.clipCount.toNat + 1) 0xFFFF) }
      sent := []
      result := some (.code .ok) }

/-! ## Host ops that store to the SRAM -/

/-- `WRITE_BYTE` stores its byte, `WRITE_WORD` its word at `2w` with the high byte first (R171, R172, R83), after the
drain (R428), with the frame of R164 or R165; no other byte and no register changes, and nothing is pending. -/
def Obligations.ByteAndWordOpsStore : Prop :=
  ∀ s : State, s.hostReady →
    (∀ a d, a < 131072 → d < 256 →
      ∃ t, exec (.writeByte a d) s = .next t ∧ s.storedBy t a [BitVec.ofNat 8 d] ∧
        t.block = { s.block with movePending := false }) ∧
    ∀ w v, w < 65536 → v < 65536 →
      ∃ t, exec (.writeWord w v) s = .next t ∧
        s.storedBy t (2 * w) [BitVec.ofNat 8 (v / 256), BitVec.ofNat 8 v] ∧
        t.block = { s.block with movePending := false }

/-- `WRITE_INDEX_ENTRY` stores the packed entry of the line: `00 00 n<<4` for protoline `n`, the 17-bit address with
selector 0 for a picture (R301, R305, R306). -/
def Obligations.IndexEntryOpStores : Prop :=
  ∀ (s : State) (line value : Nat), s.hostReady → line < s.cfg.totalLines →
    (value < s.cfg.numProtolines →
      ∃ t, exec (.writeIndexEntry line 0 value) s = .next t ∧
        s.storedBy t (s.cfg.indexStart + 3 * line) [0, 0, BitVec.ofNat 8 (16 * value)] ∧
        t.block = { s.block with movePending := false }) ∧
    (0 < value → value + s.cfg.width ≤ 131072 →
      ∃ t, exec (.writeIndexEntry line 1 value) s = .next t ∧
        s.storedBy t (s.cfg.indexStart + 3 * line)
          [BitVec.ofNat 8 value, BitVec.ofNat 8 (value / 256), BitVec.ofNat 8 (value / 65536)] ∧
        t.block = { s.block with movePending := false })

/-- `FILL_PROTOLINE` stores `count` copies of its word from word `offset` of the protoline, in one frame; with
`count = 0` it succeeds with no frame and changes nothing (R302). -/
def Obligations.FillProtolineStoresCopies : Prop :=
  ∀ (s : State) (n offset count value : Nat), n < s.cfg.numProtolines → value < 65536 →
    offset + count ≤ s.cfg.lineLen →
    (count = 0 → s.cfg.valid = true →
      exec (.fillProtoline n offset count value) s = .next { s with sent := [], result := some (.code .ok) }) ∧
    (0 < count → s.hostReady →
      ∃ t, exec (.fillProtoline n offset count value) s = .next t ∧
        s.storedBy t (2 * n * s.cfg.lineLen + 2 * offset)
          (List.replicate count [BitVec.ofNat 8 (value / 256), BitVec.ofNat 8 value]).flatten ∧
        t.block = { s.block with movePending := false })

/-- `SET_COLOR_BURST` paints the burst window of protoline 0 with the burst level or the blanking level, in one frame,
and sets `BURST_ON` (R353). -/
def Obligations.ColorBurstOpPaintsTheWindow : Prop :=
  ∀ (s : State) (enable level : Nat), s.hostReady → enable ≤ 1 →
    level = (if enable = 1 then s.cfg.burstLevel else s.cfg.blankLevel) →
    ∃ t, exec (.setColorBurst enable) s = .next t ∧
      s.storedBy t (2 * s.cfg.burstStart)
        (List.replicate (s.cfg.burstEnd - s.cfg.burstStart)
          [BitVec.ofNat 8 (level / 256), BitVec.ofNat 8 level]).flatten ∧
      t.block = { s.block with movePending := false, burstOn := decide (enable = 1) }

/-- `WRITE_PIXEL` inside the picture stores its colour at the pixel's address and nowhere else (R303, R295). -/
def Obligations.PixelOpStoresItsColor : Prop :=
  ∀ (s : State) (x y color : Nat), s.hostReady → x < s.cfg.width → y < s.cfg.height → color < 256 →
    ∃ t, exec (.writePixel x y color) s = .next t ∧
      s.storedBy t (s.cfg.pictureStart + y * (s.cfg.width + s.cfg.guard) + x) [BitVec.ofNat 8 color] ∧
      t.block = { s.block with movePending := false }

/-! ## Host ops that read the SRAM -/

/-- `READ_BYTE` and `READ_PIXEL` return the byte, as the drained move left it, and change no byte, no register and no
fault record (R173, R304, R428). -/
def Obligations.ReadOpsReturnTheByte : Prop :=
  ∀ (s : State) (b : Byte), s.hostReady →
    (∀ a, a < 131072 → Memory.read s.settledMem a = some b →
      ∃ t, exec (.readByte a) s = .next t ∧ t.result = some (.value .ok b.toNat) ∧ t.chip.mem = s.settledMem ∧
        s.sameRegisters t ∧ t.chip.busy = false ∧ t.block = { s.block with movePending := false }) ∧
    ∀ x y, x < s.cfg.width → y < s.cfg.height → Memory.read s.settledMem (s.cfg.pix x y) = some b →
      ∃ t, exec (.readPixel x y) s = .next t ∧ t.result = some (.value .ok b.toNat) ∧ t.chip.mem = s.settledMem ∧
        s.sameRegisters t ∧ t.chip.busy = false ∧ t.block = { s.block with movePending := false }

/-- A pixel written and read back gives the colour written, even with a move pending; and writing one pixel leaves
what any other pixel reads (R304's corner case, R295). -/
def Obligations.PixelWrittenIsPixelRead : Prop :=
  ∀ (s : State) (x y color : Nat), s.hostReady → x < s.cfg.width → y < s.cfg.height → color < 256 →
    ∃ t u, exec (.writePixel x y color) s = .next t ∧ exec (.readPixel x y) t = .next u ∧
      u.result = some (.value .ok color) ∧
      ∀ x' y', x' < s.cfg.width → y' < s.cfg.height → (x', y') ≠ (x, y) →
        Memory.read u.chip.mem (s.cfg.pix x' y') = Memory.read s.settledMem (s.cfg.pix x' y')

/-- Before `INIT`, while `MODE` is `⊥`, each host op that sends a `WRITE` or `READ` frame still returns `E_OK`: the
frame records `F_MODE` with its address and changes nothing else (R503, R171). -/
def Obligations.MemoryOpsBeforeInitRecordModeFaults : Prop :=
  ∀ s : State, s.cfg.valid = true → s.chip.mode = none → s.chip.busy = false → s.chip.select = false →
    s.block.movePending = false → s.hostResetIn = none →
    (∀ i a, s.cfg.storesAt i a →
      ∃ t, exec i s = .next t ∧ t.result = some (.code .ok) ∧ t.chip = s.chip ∧ t.block = s.block ∧
        t.faults = withFault s.faults ⟨.mode, s.cfg.opmap.write, some a⟩) ∧
    (∀ enable, enable ≤ 1 →
      ∃ t, exec (.setColorBurst enable) s = .next t ∧ t.result = some (.code .ok) ∧ t.chip = s.chip ∧
        t.block = { s.block with burstOn := decide (enable = 1) } ∧
        t.faults = withFault s.faults ⟨.mode, s.cfg.opmap.write, some (2 * s.cfg.burstStart)⟩) ∧
    (∀ i a, s.cfg.readsAt i a →
      ∃ t v, exec i s = .next t ∧ t.result = some (.value .ok v) ∧ v < 256 ∧ t.chip = s.chip ∧ t.block = s.block ∧
        t.faults = withFault s.faults ⟨.mode, s.cfg.opmap.read, some a⟩)

/-! ## Waiting and block moves from the host -/

/-- `WAIT_IDLE` polls at least once and, where the polls suffice, returns `E_OK` with no move running or pending and
the running move's bytes in the SRAM (R432, R427). -/
def Obligations.WaitIdleEndsTheMove : Prop :=
  ∀ s : State, s.cfg.valid = true → s.waitEnds → s.hostResetIn = none →
    ∃ t, exec .waitIdle s = .next t ∧ t.result = some (.code .ok) ∧ t.chip.busy = false ∧
      t.chip.mem = s.settledMem ∧ s.sameRegisters t ∧ t.block = { s.block with movePending := false } ∧
      1 ≤ t.sent.length

/-- Where every poll that `BUSY_POLL_LIMIT` allows sees `BUSY = 1`, a host op that waits sends just those polls and
returns `E_TIMEOUT` (value 0 where it returns one): `WAIT_IDLE`, and, with a move pending, the drain of `INIT` and of the
ops that store or read. No `WRITE` or `READ` is sent, every byte, register and block-layer field but `FIRST_ERR` stays,
and the move runs on (R427, R428, R461, R464). `BLIT` and `BLIT_SPLIT` time out after `BMC1` and `BMC2`, before any
`BMSTART`: the old move runs on with its own parameters, and the shadow fields hold the new ones (R420, R426, R464).
How long the engine stays busy is the model's free delay, which each frame sent counts down (log entry 6). -/
def Obligations.TimeoutsLeaveTheMoveRunning : Prop :=
  ∀ (s : State) (n : Nat), s.cfg.valid = true → s.chip.busy = true → s.cfg.busyPollLimit = some n →
    n ≤ s.pollsLeft → s.hostResetIn = none →
    s.timesOut .waitIdle n ∧
    (s.block.movePending = true →
      s.timesOut .init n ∧ (∀ enable, enable ≤ 1 → s.timesOut (.setColorBurst enable) n) ∧
      ∀ i a, s.cfg.storesAt i a ∨ s.cfg.readsAt i a → s.timesOut i n) ∧
    (n + 2 ≤ s.delay → ∀ src dst w h stride,
      (s.cfg.acceptsMove src dst w h stride → ∀ sa da,
        sa = src + (if src < dst then (h - 1) * stride + (w - 1) else 0) →
        da = dst + (if src < dst then (h - 1) * stride + (w - 1) else 0) →
        ∃ t, exec (.blit src dst w h stride) s = .next t ∧ s.moveTimesOut t n ∧
          t.chip.bmc1 = some
            { srcW := BitVec.ofNat 16 (sa / 2), dstW := BitVec.ofNat 16 (da / 2), dir := decide (src < dst),
              dstOdd := decide (da % 2 = 1), srcOdd := decide (sa % 2 = 1), lpf := decide (s.cfg.lpfEnable = 1) } ∧
          t.chip.bmc2 = some
            { stride := BitVec.ofNat 16 stride, width := BitVec.ofNat 8 w, hm1 := BitVec.ofNat 8 (h - 1) }) ∧
      (s.cfg.acceptsSplit src dst w h stride →
        ∃ t, exec (.blitSplit src dst w h stride) s = .next t ∧ s.moveTimesOut t n))

/-- `BLIT` that passes its checks returns `E_OK` with its move running and pending, and the SRAM of the move before it;
when the move has completed, the destination rectangle holds what the source rectangle held, as if it were read first
whatever the overlap, and no other byte has changed (R420, R422, R415). The live filter flag is `LPF_ENABLE` (R421,
R514). -/
def Obligations.BlitMovesTheRectangle : Prop :=
  ∀ (s : State) (src dst w h stride : Nat), s.cfg.valid = true → s.waitEnds → s.hostResetIn = none →
    s.cfg.acceptsMove src dst w h stride →
    ∃ t, exec (.blit src dst w h stride) s = .next t ∧ t.result = some (.code .ok) ∧
      t.chip.busy = true ∧ t.block = { s.block with movePending := true } ∧ t.faults = s.faults ∧ t.cfg = s.cfg ∧
      t.chip.otherRegisters = s.chip.otherRegisters ∧ t.chip.bmc1.map Bmc1.lpf = some (decide (s.cfg.lpfEnable = 1)) ∧
      t.chip.mem = s.settledMem ∧
      Memory.movedRect s.settledMem t.settledMem src dst w h stride

/-- `BLIT` of an empty rectangle succeeds with no frame; else the first check that fails decides, in the order
`E_RANGE`, `E_BLIT_NARROW`, `E_BLIT_WIDE`, `E_BLIT_OVERLAP1`, with no frame (R420, R465). A width past 65535 is out of
its type's range by R133 (log entry 13). -/
def Obligations.BlitChecksInOrder : Prop :=
  ∀ (s : State) (src dst w h stride : Nat), s.cfg.valid = true →
    (w = 0 ∨ h = 0 →
      exec (.blit src dst w h stride) s = .next { s with sent := [], result := some (.code .ok) }) ∧
    ∀ e, 0 < w → 0 < h →
      (if 256 < h ∨ 65535 < stride ∨ 65535 < w ∨ (1 < h ∧ stride < w) ∨ 131072 < src + (h - 1) * stride + w ∨
          131072 < dst + (h - 1) * stride + w then e = .range
       else if w < s.cfg.bmMinWidth then e = .blitNarrow
       else if s.cfg.bmMaxWidth < w then e = .blitWide
       else e = .blitOverlap1 ∧ overlapsByOne src dst h stride) →
      s.refusesWith (.blit src dst w h stride) e

/-- `BLIT_SPLIT` that passes its checks, where every wait is long enough, starts every chunk and returns `E_OK`; and
when the last move has completed, the whole rectangle has been copied as if it were read first, for disjoint rectangles,
for a shift by whole rows and for a single row (R426, R429). The live filter flag is `LPF_ENABLE` (R421, R514). -/
def Obligations.BlitSplitMovesTheRectangle : Prop :=
  ∀ (s : State) (src dst w h stride : Nat), s.cfg.valid = true → s.cfg.pollsSuffice → s.hostResetIn = none →
    s.cfg.acceptsSplit src dst w h stride →
    ∃ t, exec (.blitSplit src dst w h stride) s = .next t ∧ t.result = some (.code .ok) ∧
      t.chip.busy = true ∧ t.block = { s.block with movePending := true } ∧ t.faults = s.faults ∧ t.cfg = s.cfg ∧
      t.chip.otherRegisters = s.chip.otherRegisters ∧ t.chip.bmc1.map Bmc1.lpf = some (decide (s.cfg.lpfEnable = 1)) ∧
      ((∀ r c r' c', r < h → c < w → r' < h → c' < w → src + r * stride + c ≠ dst + r' * stride + c') ∨
        (∃ k : Int, (dst : Int) - src = k * stride) ∨ h = 1 →
        Memory.movedRect s.settledMem t.settledMem src dst w h stride)

/-- `BLIT_SPLIT` checks the whole rectangle before any frame, in the order of R426, and fails with the first error. Past
the checks only the wait can fail: it returns `E_OK` or `E_TIMEOUT` (R426). A width past 65535 is out of its type's range
by R133 (log entry 13). -/
def Obligations.BlitSplitChecksInOrder : Prop :=
  ∀ (s : State) (src dst w h stride chunks : Nat), s.cfg.valid = true →
    chunks = (w + s.cfg.bmMaxWidth - 1) / s.cfg.bmMaxWidth →
    (w = 0 ∨ h = 0 →
      exec (.blitSplit src dst w h stride) s = .next { s with sent := [], result := some (.code .ok) }) ∧
    (∀ e, 0 < w → 0 < h →
      (if 256 < h ∨ 65535 < stride ∨ 65535 < w ∨ (1 < h ∧ stride < w) ∨ 131072 < src + (h - 1) * stride + w ∨
          131072 < dst + (h - 1) * stride + w then e = .range
       else if w < s.cfg.bmMinWidth then e = .blitNarrow
       else (overlapsByOne src dst h stride ∧ e = .blitOverlap1) ∨
        (¬ overlapsByOne src dst h stride ∧ w / chunks < s.cfg.bmMinWidth ∧ e = .blitNarrow)) →
      s.refusesWith (.blitSplit src dst w h stride) e) ∧
    (s.hostResetIn = none → s.cfg.acceptsSplit src dst w h stride →
      ∃ t, exec (.blitSplit src dst w h stride) s = .next t ∧
        (t.result = some (.code .ok) ∨ t.result = some (.code .timeout)))

/-! ## Initialisation -/

/-- `INIT` returns `E_OK` and raises no fault: it programs the registers of R261, writes every byte of the SRAM, leaves
no move running or pending and sets `BURST_ON`; `BMC2` and the active move registers stay (R380–R393, R504; log
entry 20 for `BMC2`). -/
def Obligations.InitProgramsTheChip : Prop :=
  ∀ s : State, s.cfg.valid = true → s.drains → s.hostResetIn = none →
    ∃ t, exec .init s = .next t ∧ t.result = some (.code .ok) ∧ t.faults = s.faults ∧ t.cfg = s.cfg ∧
      t.block = { s.block with movePending := false, burstOn := true } ∧ t.initialised ∧ t.chip.busy = false ∧
      t.chip.scanMode = .running (initScanRegs s.cfg) ∧
      t.chip.videoForm.map VideoForm.pal = some (decide (s.cfg.std = .pal)) ∧
      t.chip.bmc1 = some ⟨0, 0, false, false, false, decide (s.cfg.lpfEnable = 1)⟩ ∧
      t.chip.bmc2 = s.chip.bmc2 ∧ t.chip.active = s.chip.active

/-- After `INIT` the index table holds, for every physical line, the picture entry of its row, the entry of the
protoline the frame table names, or protoline 0 (R308). -/
def Obligations.InitBuildsTheIndexTable : Prop :=
  ∀ s : State, s.cfg.valid = true → s.drains → s.hostResetIn = none →
    ∃ t, exec .init s = .next t ∧
      ∀ line i, line < s.cfg.totalLines → i < 3 →
        Memory.read t.chip.mem (s.cfg.indexStart + 3 * line + i) =
          if s.cfg.firstPicLine ≤ line ∧ line < s.cfg.firstPicLine + s.cfg.height then
            (encPic (s.cfg.row (line - s.cfg.firstPicLine)))[i]?
          else (encProto (lineProtoline s.cfg line))[i]?

/-- After `INIT` every built protoline holds its pattern, every protoline that is not built holds 0, and so does every
byte past the index table: the pad byte, the picture with its guard bytes, and the glyph cache (R348–R351, R296, R382,
R389). -/
def Obligations.InitBuildsTheProtolines : Prop :=
  ∀ s : State, s.cfg.valid = true → s.drains → s.hostResetIn = none →
    ∃ t, exec .init s = .next t ∧
      (∀ n k, n < s.cfg.numProtolines → k < s.cfg.lineLen →
        Memory.readWord t.chip.mem (2 * n * s.cfg.lineLen + 2 * k) =
          some (if n < s.cfg.builtProtolines then BitVec.ofNat 16 (protolineValue s.cfg n k) else 0)) ∧
      ∀ a, s.cfg.indexEnd ≤ a → a < 131072 → Memory.read t.chip.mem a = some 0

/-- After `INIT` the scan-out shows, on every line and clock, a pixel of value 0 inside the picture window of a picture
line, and everywhere else the word of the line's protoline (R354, for every valid configuration). -/
def Obligations.InitShowsTheBlankPicture : Prop :=
  ∀ s : State, s.cfg.valid = true → s.drains → s.hostResetIn = none →
    ∃ t, exec .init s = .next t ∧ t.displaysPicture ∧ t.quiescent ∧
      ∀ line p, line < s.cfg.totalLines → p < s.cfg.lineLen →
        t.shows line p = some (
          if (s.cfg.firstPicLine ≤ line ∧ line < s.cfg.firstPicLine + s.cfg.height) ∧
              s.cfg.picStart ≤ p ∧ p < s.cfg.picEnd then
            .pixel (ucode (BitVec.ofNat 32 s.cfg.programWord) 0)
          else .proto (BitVec.ofNat 16 (protolineValue s.cfg
            (if s.cfg.firstPicLine ≤ line ∧ line < s.cfg.firstPicLine + s.cfg.height then 0
             else lineProtoline s.cfg line) p)))

/-- `INIT` from any two states of one configuration ends in the same chip: the same SRAM and the same registers. `BMC2`
and the active move registers, which its sequence does not send, keep what they held (R395; log entry 20). -/
def Obligations.InitEndsInTheSameChip : Prop :=
  ∀ s₁ s₂ : State, s₁.cfg = s₂.cfg → s₁.cfg.valid = true → Memory.wf s₁.chip.mem → Memory.wf s₂.chip.mem →
    s₁.drains → s₂.drains → s₁.hostResetIn = none → s₂.hostResetIn = none →
    ∃ t₁ t₂, exec .init s₁ = .next t₁ ∧ exec .init s₂ = .next t₂ ∧
      t₁.chip = { t₂.chip with bmc2 := t₁.chip.bmc2, active := t₁.chip.active }

/-- A pixel that `WRITE_PIXEL` writes is what the scan-out shows at each of the `PIXEL_CLKS` clocks of that pixel
(R342, R344, R303, R105). -/
def Obligations.PixelWrittenIsPixelShown : Prop :=
  ∀ (s : State) (x y color j : Nat), s.hostReady → s.displaysPicture → x < s.cfg.width → y < s.cfg.height →
    color < 256 → j < s.cfg.pixelClks →
    ∃ t, exec (.writePixel x y color) s = .next t ∧ t.displaysPicture ∧
      t.shows (s.cfg.firstPicLine + y) (s.cfg.picStart + x * s.cfg.pixelClks + j) =
        some (.pixel (ucode (BitVec.ofNat 32 s.cfg.programWord) (BitVec.ofNat 8 color)))

/-! ## Errors and the layers -/

/-- `FIRST_ERR` is sticky (R463): after a host op that no reset cuts short it holds what it held, or, where that was
`E_OK`, the code the op returned; an op that fails returns the value 0. -/
def Obligations.FirstErrorIsSticky : Prop :=
  ∀ (i : Instr) (s t : State), i.isFrame = false → s.hostResetIn = none → exec i s = .next t →
    ∃ r, t.result = some r ∧
      (t.block.firstErr = if s.block.firstErr = .ok then r.err else s.block.firstErr) ∧
      ∀ e v, r = .value e v → e ≠ .ok → v = 0

/-- A host op is the frames it sends and nothing else to the chip: replaying them on the chip layer gives the same chip
and the same fault record (R4, R102). -/
def Obligations.HostOpIsTheFramesItSends : Prop :=
  ∀ (i : Instr) (s t : State), i.isFrame = false → exec i s = .next t →
    t.chip = (s.replay t.sent).chip ∧ t.faults = (s.replay t.sent).faults

/-- `HOST_RESET` (R501). Between two host ops it resets the block layer and leaves the chip and the fault record. Due
after `k` more frames, it cuts short a host op that would send more: the first `k` frames keep their effects, the rest
are not sent, and the block layer is reset; a host op that sends no more than `k` ends as it would. The model's choices
are: that the reset is an input due after a number of frames, that one that strikes clears another on its way, that one
is still on its way after an op that sends fewer, and that a cut op has no result (log entry 10); and that a reset
between two host ops also clears the result of the op that had returned (log entry 24). -/
def Obligations.HostResetCutsAnOperation : Prop :=
  (∀ (s : State) (rest : List Input), s.hostResetIn ≠ some 0 → s.inputs = .hostReset 0 :: rest →
    step s = .next { s with
      block := { firstErr := .ok, clipCount := 0, movePending := false, burstOn := false }
      inputs := rest, result := none, hostResetIn := none }) ∧
  ∀ (i : Instr) (s u t : State) (k : Nat), i.isFrame = false → s.hostResetIn = some k →
    exec i { s with hostResetIn := none } = .next u → exec i s = .next t →
    if k < u.sent.length then
      t.sent = u.sent.take k ∧ t.chip = (s.replay t.sent).chip ∧ t.faults = (s.replay t.sent).faults ∧
      t.block = { firstErr := .ok, clipCount := 0, movePending := false, burstOn := false } ∧ t.result = none ∧
      t.hostResetIn = none
    else t = { u with hostResetIn := some (k - u.sent.length) }

/-! ## Invariants and whole-machine rules -/

/-- Every step keeps the invariant: the SRAM's canonical form, select deasserted, `MODE` and `MULTIIC` unset or at
their one value, a running move latched and inside the SRAM, no more busy polls than R410's bound, and no entry twice in
the fault record (R34, R55, R200, R201, R213, R410). -/
def Obligations.StepKeepsTheInvariant : Prop :=
  ∀ s t : State, s.inv → step s = .next t → t.inv

/-- The state after reset has the invariant, with any configuration. -/
def Obligations.InvariantHoldsAtReset : Prop :=
  ∀ c : Cfg, (State.resetWith c).inv

/-- No step changes the configuration (R8, R54), and none but a power-on removes an entry of the fault record (R55,
R468). -/
def Obligations.StepKeepsConfigurationAndFaults : Prop :=
  ∀ s t : State, step s = .next t →
    t.cfg = s.cfg ∧
    ((∀ rest, s.inputs ≠ .powerOn :: rest) → ∀ e ∈ s.faults, e ∈ t.faults)

/-- Once the block is initialised, host ops raise no chip-layer fault, and it stays initialised (R466), while no reset
of the host comes between. -/
def Obligations.InitialisedHostOpsRaiseNoFault : Prop :=
  ∀ (i : Instr) (s t : State), i.isFrame = false → s.initialised → s.hostResetIn = none → exec i s = .next t →
    t.faults = s.faults ∧ t.initialised

/-- No host op makes the chip fault `F_BUSY_ACCESS`, and a move that runs stays one the block knows of, while no reset
of the host comes between (R428). -/
def Obligations.HostOpsNeverTouchBusyMemory : Prop :=
  ∀ (i : Instr) (s t : State), i.isFrame = false → (s.chip.busy = true → s.block.movePending = true) →
    s.hostResetIn = none → exec i s = .next t →
    (t.chip.busy = true → t.block.movePending = true) ∧
    ∀ e ∈ t.faults, e.name = .busyAccess → e ∈ s.faults

/-- Only `BMSTART`, and the host ops that send it, set `BUSY` (R47, R56). -/
def Obligations.OnlyMovesSetBusy : Prop :=
  ∀ (i : Instr) (s t : State), exec i s = .next t → s.chip.busy = false → t.chip.busy = true →
    i = .bmstart ∨ (∃ src dst w h stride, i = .blit src dst w h stride) ∨
    ∃ src dst w h stride, i = .blitSplit src dst w h stride

/-- `RESET` (R500) puts every piece of state at the reset value of spec/10_state.md §7: every SRAM byte and every
register `⊥`; `SELECT`, `ENABLE`, `BUSY` and the block-layer state 0; the fault record empty; and so the scan-out is off
(R502). So the reset state is, and a step with a power-on next leaves it so in every state, keeping the configuration
and what is still to come (log entry 19). -/
def Obligations.ResetLeavesTheTablesValues : Prop :=
  ∀ (s : State) (rest : List Input), s.hostResetIn ≠ some 0 → s.inputs = .powerOn :: rest →
    ∃ t, step s = .next t ∧ t.cfg = s.cfg ∧ t.inputs = rest ∧
      ∀ u, (u = t ∨ ∃ c, u = State.resetWith c) →
        (∀ a, Memory.read u.chip.mem a = none) ∧
        u.chip =
          { mem := [], select := false, mode := none, multiic := none, picstart := none, picend := none,
            linelen := none, vdctrl1 := none, indexstart := none, enable := false, videoForm := none, program := none,
            bmc1 := none, bmc2 := none, active := none, busy := false } ∧
        u.block = { firstErr := .ok, clipCount := 0, movePending := false, burstOn := false } ∧
        u.faults = [] ∧ u.observe = .off

/-! ## Decoding -/

/-- Decoding an encoded well-formed instruction gives it back, with every operand at every value its encoding admits
(R122–R133). -/
def Obligations.DecodeOfEncode : Prop :=
  ∀ (m : OpMap) (i : Instr), m.injective = true → i.wellFormed = true → decode m (encode m i) = .instr i

/-- A request that decodes to an instruction is that instruction's encoding: no two requests decode to one instruction
(R121–R133). -/
def Obligations.EncodeOfDecode : Prop :=
  ∀ (m : OpMap) (r : Request) (i : Instr), decode m r = .instr i → encode m i = r ∧ i.wellFormed = true

/-- Words written out from the spec's encodings decode to the instructions they stand for, under the reference
`OPMAP` (R127, R134). -/
def Obligations.WrittenOutWordsDecode : Prop :=
  decode OpMap.reference (.frame [0xB8, 0x0F]) = .instr (.multiic 0x0F) ∧
  decode OpMap.reference (.frame [0x28, 0x01, 0xEB]) = .instr (.picstart 491) ∧
  decode OpMap.reference (.frame [0x30, 0x03, 0x46, 0x45, 0x8C]) = .instr (.program 0x0346458C) ∧
  decode OpMap.reference (.frame [0x02, 0x00, 0x46, 0xF0, 0x00, 0x00, 0x20]) = .instr (.write 0x0046F0 [0, 0, 0x20]) ∧
  decode OpMap.reference (.frame [0x34, 0x25, 0x51, 0x25, 0xF2, 0x17]) = .instr (.bmc1 0x2551 0x25F2 0x17) ∧
  decode OpMap.reference (.frame [0x35, 0x01, 0x42, 0x08, 0x00]) = .instr (.bmc2 322 8 0) ∧
  decode OpMap.reference (.call 0x0C [0x04A9C, 0x04BDE, 8, 1, 322]) = .instr (.blit 0x04A9C 0x04BDE 8 1 322)

/-- The lengths R191 allows, and no others: a frame of an opcode decodes to an instruction exactly at those lengths, and
at every other the chip raises `F_FRAME_LENGTH`. Its entry names the address of a `WRITE` or `READ` frame (R468); that a
memory frame without three address bytes names none, and that a `BMSTART` frame of a wrong length names the source
address as its other faults do, is the model's reading (log entry 4). -/
def Obligations.FrameLengthsAllowed : Prop :=
  ∀ (m : OpMap) (c : Cmd) (payload : List Byte) (n : Nat) (allowed : Prop), m.injective = true →
    n = payload.length + 1 →
    (allowed ↔ match c with
      | .bmstart => n = 1
      | .wrsr | .multiic => n = 2
      | .picstart | .picend | .linelen | .vdctrl1 | .vdctrl2 | .bmstatus => n = 3
      | .program | .indexstart | .bmc2 => n = 5
      | .bmc1 => n = 6
      | .write | .read => 5 ≤ n) →
    (allowed → ∃ i, decode m (.frame (m.code c :: payload)) = .instr i) ∧
    (¬ allowed → decode m (.frame (m.code c :: payload)) = .frameLength (m.code c) ∧
      ∀ s : State, s.cfg.opmap = m →
        s.portFrame (m.code c :: payload) = (s.raise .frameLength (m.code c) (match c, payload with
          | .write, b1 :: b2 :: b3 :: _ | .read, b1 :: b2 :: b3 :: _ =>
            some (65536 * b1.toNat + 256 * b2.toNat + b3.toNat)
          | .bmstart, _ => s.chip.bmc1.map fun p => 2 * p.srcW.toNat + p.srcOdd.toNat
          | _, _ => none)).respondDraws n)

/-- A frame whose opcode is no value of `OPMAP` is recorded as `F_UNKNOWN_OPCODE`, answers draws and has no other
effect (R192); that the engine may take its step before the frame is R190's, in the form of the model's delay (log
entry 6). A frame of no bytes is no frame and has no step in the spec (R192): in the model a step takes it from the
inputs and does nothing (log entry 11). A call whose code is past 0x0F is refused (R470). -/
def Obligations.UndefinedEncodingsAreRefused : Prop :=
  ∀ (s : State) (rest : List Input), s.hostResetIn ≠ some 0 →
    (∀ b0 payload, s.inputs = .request (.frame (b0 :: payload)) :: rest → (∀ c, s.cfg.opmap.code c ≠ b0) →
      ∃ t, step s = .next t ∧
        t.chip = { (s.engineGap false).chip with select := false } ∧ t.block = s.block ∧
        t.faults = withFault s.faults ⟨.unknownOpcode, b0, none⟩ ∧ t.response = s.drawBytes (payload.length + 1)) ∧
    (s.inputs = .request (.frame []) :: rest → step s = .next { s with inputs := rest }) ∧
    ∀ code args, 16 ≤ code → s.inputs = .request (.call code args) :: rest →
      step s = .refused (.unknownHostOp code)

/-- A step runs the decoded instruction: when the next input decodes to `i`, the step is `exec i`, on the state without
that input and, for a frame, after its transfer (R161, R190). -/
def Obligations.StepRunsTheDecodedInstruction : Prop :=
  ∀ (s : State) (rest : List Input) (i : Instr), s.hostResetIn ≠ some 0 →
    (∀ bytes, s.inputs = .request (.frame bytes) :: rest → decode s.cfg.opmap (.frame bytes) = .instr i →
      step s = exec i (State.transfer { s with inputs := rest } bytes)) ∧
    ∀ code args, s.inputs = .request (.call code args) :: rest →
      decode s.cfg.opmap (.call code args) = .instr i → step s = exec i { s with inputs := rest }

/-! ## Geometry, layout and the pattern unit -/

/-- The reference program shows a picture byte as `Y = b[3:0]`, `U = b[5:4]`, `V = b[7:6]`, and its slots decode to the
table of R262. -/
def Obligations.ReferenceProgramSplitsTheByte : Prop :=
  (∀ b : Byte, ucode 0x0346458C b = ⟨b &&& 0x0F, (b >>> 4) &&& 3, b >>> 6⟩) ∧
  (List.range 4).map (fun k => (microOp 0x0346458C k, opPlane (microOp 0x0346458C k), opBits (microOp 0x0346458C k),
    opShift (microOp 0x0346458C k))) = [(0x8C, 0, 4, 4), (0x45, 1, 2, 2), (0x46, 2, 2, 2), (0x03, 3, 1, 0)]

/-- An `END` slot stops the microcode program: two programs that agree up to and with a slot that ends both decode every
byte alike (R208, R344). -/
def Obligations.EndSlotStopsTheProgram : Prop :=
  ∀ (p q : Word) (b : Byte) (k : Nat), k < 4 → (∀ j, j ≤ k → microOp p j = microOp q j) →
    opPlane (microOp p k) = 3 → ucode p b = ucode q b

/-- Index entries (R305–R307): a protoline entry is `00 00 n<<4` and decodes to that selector and no picture; a picture
entry is the three bytes of the address and decodes to selector 0 and that address. -/
def Obligations.IndexEntriesDecode : Prop :=
  (∀ n, n < 16 → encProto n = [0, 0, BitVec.ofNat 8 (16 * n)] ∧
    entryPicture 0 0 (BitVec.ofNat 8 (16 * n)) = 0 ∧ entrySelector (BitVec.ofNat 8 (16 * n)) = BitVec.ofNat 4 n) ∧
  ∀ a, 0 < a → a < 131072 →
    encPic a = [BitVec.ofNat 8 a, BitVec.ofNat 8 (a / 256), BitVec.ofNat 8 (a / 65536)] ∧
    entryPicture (BitVec.ofNat 8 a) (BitVec.ofNat 8 (a / 256)) (BitVec.ofNat 8 (a / 65536)) = BitVec.ofNat 17 a ∧
    entrySelector (BitVec.ofNat 8 (a / 65536)) = 0

/-- The regions of a valid configuration lie in the order of R297, disjoint and inside the SRAM, the picture from an
even address; and two pixels never share a byte (R292, R297). -/
def Obligations.RegionsAreDisjoint : Prop :=
  ∀ c : Cfg, c.valid = true →
    (∀ n k, n < k → c.protoByte n + 2 * c.lineLen ≤ c.protoByte k) ∧
    (∀ n, n < c.numProtolines → c.protoByte n + 2 * c.lineLen ≤ c.indexStart) ∧
    (∀ l, l < c.totalLines → c.entryAddr l + 3 ≤ c.indexEnd) ∧
    c.indexEnd ≤ c.pictureStart ∧ c.pictureStart ≤ c.indexEnd + 1 ∧ c.pictureStart % 2 = 0 ∧
    (∀ x y, x < c.width → y < c.height → c.pictureStart ≤ c.pix x y ∧ c.pix x y < c.glyphStart) ∧
    c.glyphStart = c.pictureStart + c.height * (c.width + c.guard) ∧ c.glyphStart ≤ 131072 ∧
    ∀ x y x' y', x < c.width → y < c.height → x' < c.width → y' < c.height → c.pix x y = c.pix x' y' →
      x = x' ∧ y = y'
end

