-- ==== Sys2Proof/Laws/Geometry.lean ====
section
/-! SUPPORT. What a valid configuration gives (R266), in numbers, and the places of the regions (R290–R297). -/

namespace Sys2Proof

/-- The conditions of R266, taken apart. -/
theorem Cfg.valid_iff (c : Cfg) : c.valid = true ↔
    c.clockOk = true ∧ c.sizeOk = true ∧ c.linesOk = true ∧ c.lineLenOk = true ∧ c.pulsesOk = true ∧
    c.pixelClksOk = true ∧ c.vsyncOk = true ∧ c.protolinesOk = true ∧ c.frameTableOk = true ∧ c.memoryOk = true ∧
    c.pitchOk = true ∧ c.levelsOk = true ∧ c.moveLimitsOk = true ∧ c.opmap.injective = true := by
  simp only [Cfg.valid, Bool.and_eq_true, and_assoc]

section Valid

variable {c : Cfg} (h : c.valid = true)
include h

theorem Cfg.valid_size : 1 ≤ c.width ∧ 1 ≤ c.height ∧ c.height ≤ c.totalLines := by
  simpa [Cfg.sizeOk] using (c.valid_iff.mp h).2.1

theorem Cfg.valid_lines : 1 ≤ c.totalLines ∧ c.totalLines ≤ 1023 := by
  simpa [Cfg.linesOk] using (c.valid_iff.mp h).2.2.1

theorem Cfg.valid_lineLen : c.lineLen ≤ 4095 := by
  simpa [Cfg.lineLenOk] using (c.valid_iff.mp h).2.2.2.1

theorem Cfg.valid_pulses : 1 ≤ c.syncClks ∧ c.syncClks < c.burstStart ∧ c.burstStart < c.burstEnd ∧
    c.burstEnd ≤ c.blankEnd ∧ c.blankEnd < c.activeEnd ∧ c.activeEnd ≤ c.lineLen := by
  simpa [Cfg.pulsesOk] using (c.valid_iff.mp h).2.2.2.2.1

theorem Cfg.valid_pixelClks : 1 ≤ c.pixelClks ∧ c.pixelClks ≤ 15 := by
  simpa [Cfg.pixelClksOk] using (c.valid_iff.mp h).2.2.2.2.2.1

theorem Cfg.valid_vsync : 1 ≤ c.shortClks ∧ c.shortClks ≤ c.halfLine ∧ 1 ≤ c.longClks ∧ c.longClks ≤ c.halfLine ∧
    c.halfLine + c.longClks ≤ c.lineLen := by
  simpa [Cfg.vsyncOk] using (c.valid_iff.mp h).2.2.2.2.2.2.1

theorem Cfg.valid_protolines : c.numProtolines ≤ 16 ∧ c.builtProtolines ≤ c.numProtolines ∧
    c.numProtolines * c.lineLen ≤ 65536 := by
  simpa [Cfg.protolinesOk] using (c.valid_iff.mp h).2.2.2.2.2.2.2.1

theorem Cfg.valid_frameTable : (∀ e ∈ c.frameTable, e.1 < c.totalLines ∧ 1 ≤ e.2 ∧ e.2 < c.builtProtolines ∧
    ¬(c.firstPicLine ≤ e.1 ∧ e.1 < c.firstPicLine + c.height)) ∧ (c.frameTable.map Prod.fst).Nodup := by
  have := (c.valid_iff.mp h).2.2.2.2.2.2.2.2.1
  simp only [Cfg.frameTableOk, Bool.and_eq_true, List.all_eq_true, decide_eq_true_eq] at this
  exact this

theorem Cfg.valid_memory : c.glyphStart ≤ 131072 := by
  simpa [Cfg.memoryOk] using (c.valid_iff.mp h).2.2.2.2.2.2.2.2.2.1

theorem Cfg.valid_pitch : c.pitch ≤ 65535 := by
  simpa [Cfg.pitchOk] using (c.valid_iff.mp h).2.2.2.2.2.2.2.2.2.2.1

theorem Cfg.valid_levels : c.syncLevel < 65536 ∧ c.blankLevel < 65536 ∧ c.blackLevel < 65536 ∧
    c.burstLevel < 65536 ∧ c.programWord < 4294967296 ∧ c.multiicOff < 256 ∧ c.lpfEnable ≤ 1 := by
  simpa [Cfg.levelsOk] using (c.valid_iff.mp h).2.2.2.2.2.2.2.2.2.2.2.1

theorem Cfg.valid_moveLimits : 1 ≤ c.bmMinWidth ∧ c.bmMinWidth ≤ c.bmMaxWidth ∧ c.bmMaxWidth ≤ 255 ∧
    c.busyPollLimit ≠ some 0 := by
  simpa [Cfg.moveLimitsOk] using (c.valid_iff.mp h).2.2.2.2.2.2.2.2.2.2.2.2.1

theorem Cfg.valid_injective : c.opmap.injective = true := (c.valid_iff.mp h).2.2.2.2.2.2.2.2.2.2.2.2.2

/-- The index entry of a line lies inside the SRAM. -/
theorem Cfg.entryAddr_fits {line : Nat} (hl : line < c.totalLines) : c.entryAddr line + 3 ≤ 131072 := by
  have := Cfg.valid_memory h
  unfold Cfg.glyphStart Cfg.pictureStart Cfg.indexEnd at this
  unfold Cfg.entryAddr
  omega

/-- A protoline lies inside the SRAM, before the index table. -/
theorem Cfg.protoline_fits {n : Nat} (hn : n < c.numProtolines) :
    c.protoByte n + 2 * c.lineLen ≤ c.indexStart ∧ c.indexStart ≤ 131072 := by
  have h1 : (n + 1) * c.lineLen ≤ c.numProtolines * c.lineLen := Nat.mul_le_mul_right _ hn
  have h2 := (Cfg.valid_protolines h).2.2
  have e1 : 2 * n * c.lineLen = 2 * (n * c.lineLen) := by ring
  have e2 : 2 * c.numProtolines * c.lineLen = 2 * (c.numProtolines * c.lineLen) := by ring
  unfold Cfg.protoByte Cfg.indexStart
  rw [Nat.add_mul] at h1
  omega

/-- A pixel lies inside the picture region (R295, R297). -/
theorem Cfg.pix_fits {x y : Nat} (hx : x < c.width) (hy : y < c.height) :
    c.pictureStart ≤ c.pix x y ∧ c.pix x y < c.glyphStart ∧ c.pix x y < 131072 := by
  have h1 : (y + 1) * c.pitch ≤ c.height * c.pitch := Nat.mul_le_mul_right _ hy
  have h2 := Cfg.valid_memory h
  have h3 : x < c.pitch := by unfold Cfg.pitch; omega
  rw [Nat.add_mul] at h1
  unfold Cfg.pix Cfg.row
  unfold Cfg.glyphStart at *
  omega

end Valid

end Sys2Proof
end

