-- ==== Sys2Proof/Laws/Decode.lean ====
section
/-! SUPPORT. The laws of the decoder and the encoder: the opcode map read backwards (R127, R190) and each field put
together again from the bytes it was sent in (R86, R130). -/

namespace Sys2Proof

/-! ## The opcode map -/

theorem find?_of_map_nodup {α β : Type} [DecidableEq β] (f : α → β) {l : List α} (hl : (l.map f).Nodup) {a : α}
    (ha : a ∈ l) : (l.find? fun x => f x == f a) = some a := by
  induction l with
  | nil => simp at ha
  | cons x l ih =>
    simp only [List.map_cons, List.nodup_cons] at hl
    rcases List.mem_cons.mp ha with rfl | ha
    · simp
    · have hne : f x ≠ f a := fun h => hl.1 (h ▸ List.mem_map_of_mem ha)
      simp [hne, ih hl.2 ha]

theorem Cmd.mem_all (c : Cmd) : c ∈ Cmd.all := by cases c <;> simp [Cmd.all]

/-- An injective `OPMAP` gives each command back from its opcode (R127). -/
theorem OpMap.command_code {m : OpMap} (h : m.injective = true) (c : Cmd) : m.command (m.code c) = some c := by
  unfold OpMap.command
  exact find?_of_map_nodup m.code (by simpa [OpMap.injective] using h) c.mem_all

/-- The opcode of the command a byte is decoded to is that byte (R190). -/
theorem OpMap.code_of_command {m : OpMap} {b : Byte} {c : Cmd} (h : m.command b = some c) : m.code c = b := by
  unfold OpMap.command at h
  simpa using List.find?_some h

/-- No command is found exactly for a byte that is no value of `OPMAP` (R192). -/
theorem OpMap.command_eq_none {m : OpMap} {b : Byte} : m.command b = none ↔ ∀ c, m.code c ≠ b := by
  unfold OpMap.command
  simp [List.find?_eq_none, Cmd.mem_all]

/-- A frame of an opcode of an injective `OPMAP` is decoded by its command's format (R190). -/
theorem decodeFrame_code {m : OpMap} (h : m.injective = true) (c : Cmd) (payload : List Byte) :
    decodeFrame m (m.code c :: payload) =
      match frameInstr c payload with
      | some i => .instr i
      | none => .frameLength (m.code c) := by
  show (match m.command (m.code c) with
    | none => Decoded.unknownOpcode (m.code c)
    | some d => match frameInstr d payload with
      | some i => .instr i
      | none => .frameLength (m.code c)) = _
  rw [OpMap.command_code h]

/-! ## Fields -/

@[simp] theorem hi_append_lo (v : Half) : hi v ++ lo v = v := by
  unfold hi lo
  ext i hi'
  simp only [BitVec.getElem_append, BitVec.getElem_extractLsb']
  split
  · simp [BitVec.getLsbD_eq_getElem, hi']
  · have : 8 + (i - 8) = i := by omega
    simp [this, BitVec.getLsbD_eq_getElem, hi']

@[simp] theorem addr24_append (a : BitVec 24) :
    (a.extractLsb' 16 8 ++ a.extractLsb' 8 8 ++ a.extractLsb' 0 8 : BitVec 24) = a := by
  ext i hi'
  simp only [BitVec.getElem_append, BitVec.getElem_extractLsb']
  split
  · simp [BitVec.getLsbD_eq_getElem, hi']
  · split
    · have : 8 + (i - 8) = i := by omega
      simp [this, BitVec.getLsbD_eq_getElem, hi']
    · have : 16 + (i - 8 - 8) = i := by omega
      simp [this, BitVec.getLsbD_eq_getElem, hi']

@[simp] theorem bytes32_append (v : Word) :
    (v.extractLsb' 24 8 ++ v.extractLsb' 16 8 ++ v.extractLsb' 8 8 ++ v.extractLsb' 0 8 : Word) = v := by
  ext i hi'
  simp only [BitVec.getElem_append, BitVec.getElem_extractLsb']
  split
  · simp [BitVec.getLsbD_eq_getElem, hi']
  · split
    · have : 8 + (i - 8) = i := by omega
      simp [this, BitVec.getLsbD_eq_getElem, hi']
    · split
      · have : 16 + (i - 8 - 8) = i := by omega
        simp [this, BitVec.getLsbD_eq_getElem, hi']
      · have : 24 + (i - 8 - 8 - 8) = i := by omega
        simp [this, BitVec.getLsbD_eq_getElem, hi']

theorem addr24_length (a : BitVec 24) : (addr24 a).length = 3 := rfl

/-- The two bytes of a 16-bit value, as numbers: `hi` and `lo` of R11. -/
theorem bytes16_ofNat (v : Nat) (h : v < 65536) :
    bytes16 (BitVec.ofNat 16 v) = [BitVec.ofNat 8 (v / 256), BitVec.ofNat 8 v] := by
  have h1 : hi (BitVec.ofNat 16 v) = BitVec.ofNat 8 (v / 256) := by
    apply BitVec.eq_of_toNat_eq
    simp [hi, Nat.shiftRight_eq_div_pow, Nat.mod_eq_of_lt h]
  have h2 : lo (BitVec.ofNat 16 v) = BitVec.ofNat 8 v := by
    apply BitVec.eq_of_toNat_eq
    simp [lo, Nat.mod_eq_of_lt h]
  simp [bytes16, h1, h2]

end Sys2Proof
end

