-- ==== Sys2Proof/Laws/PerInstr.lean ====
section
/-! SUPPORT. The family of statements made for every instruction: an instruction's encoding is its command's opcode or
its host-op code, with operands that the format of that code reads back (spec/30_encoding.md R122–R133). -/

namespace Sys2Proof

/-- A well-formed instruction is encoded in the format of its command or of its host-op code, and that format reads its
operands back. -/
def Laws.EncodesItsFormat.Statement (i : Instr) : Prop :=
  i.wellFormed = true →
    (∃ c payload, frameInstr c payload = some i ∧ ∀ m, encode m i = .frame (m.code c :: payload)) ∨
    (∃ code args, callInstr code args = some i ∧ ∀ m, encode m i = .call code args)

namespace Laws.EncodesItsFormat

theorem multiic (d : Byte) : Statement (.multiic d) :=
  fun _ => .inl ⟨.multiic, [d], rfl, fun _ => rfl⟩

theorem wrsr (d : Byte) : Statement (.wrsr d) :=
  fun _ => .inl ⟨.wrsr, [d], rfl, fun _ => rfl⟩

theorem write (a : BitVec 24) (data : List Byte) : Statement (.write a data) := by
  intro h
  cases data with
  | nil => simp [Instr.wellFormed] at h
  | cons x xs => exact .inl ⟨.write, addr24 a ++ (x :: xs),
      congrArg (fun y => some (Instr.write y (x :: xs))) (addr24_append a), fun _ => rfl⟩

theorem read (a : BitVec 24) (filler : List Byte) : Statement (.read a filler) := by
  intro h
  cases filler with
  | nil => simp [Instr.wellFormed] at h
  | cons x xs => exact .inl ⟨.read, addr24 a ++ (x :: xs),
      congrArg (fun y => some (Instr.read y (x :: xs))) (addr24_append a), fun _ => rfl⟩

theorem picstart (v : Half) : Statement (.picstart v) :=
  fun _ => .inl ⟨.picstart, bytes16 v,
    congrArg (fun x => some (Instr.picstart x)) (hi_append_lo v), fun _ => rfl⟩

theorem picend (v : Half) : Statement (.picend v) :=
  fun _ => .inl ⟨.picend, bytes16 v, congrArg (fun x => some (Instr.picend x)) (hi_append_lo v), fun _ => rfl⟩

theorem linelen (v : Half) : Statement (.linelen v) :=
  fun _ => .inl ⟨.linelen, bytes16 v,
    congrArg (fun x => some (Instr.linelen x)) (hi_append_lo v), fun _ => rfl⟩

theorem vdctrl1 (v : Half) : Statement (.vdctrl1 v) :=
  fun _ => .inl ⟨.vdctrl1, bytes16 v,
    congrArg (fun x => some (Instr.vdctrl1 x)) (hi_append_lo v), fun _ => rfl⟩

theorem indexstart (v : Word) : Statement (.indexstart v) :=
  fun _ => .inl ⟨.indexstart, bytes32 v,
    congrArg (fun x => some (Instr.indexstart x)) (bytes32_append v), fun _ => rfl⟩

theorem vdctrl2 (v : Half) : Statement (.vdctrl2 v) :=
  fun _ => .inl ⟨.vdctrl2, bytes16 v,
    congrArg (fun x => some (Instr.vdctrl2 x)) (hi_append_lo v), fun _ => rfl⟩

theorem program (v : Word) : Statement (.program v) :=
  fun _ => .inl ⟨.program, bytes32 v,
    congrArg (fun x => some (Instr.program x)) (bytes32_append v), fun _ => rfl⟩

theorem bmc1 (srcW dstW : Half) (flags : Byte) : Statement (.bmc1 srcW dstW flags) :=
  fun _ => .inl ⟨.bmc1, bytes16 srcW ++ bytes16 dstW ++ [flags],
    congrArg₂ (fun x y => some (Instr.bmc1 x y flags)) (hi_append_lo srcW) (hi_append_lo dstW), fun _ => rfl⟩

theorem bmc2 (stride : Half) (width hm1 : Byte) : Statement (.bmc2 stride width hm1) :=
  fun _ => .inl ⟨.bmc2, bytes16 stride ++ [width, hm1],
    congrArg (fun x => some (Instr.bmc2 x width hm1)) (hi_append_lo stride), fun _ => rfl⟩

theorem bmstart : Statement .bmstart :=
  fun _ => .inl ⟨.bmstart, [], rfl, fun _ => rfl⟩

theorem bmstatus (f1 f2 : Byte) : Statement (.bmstatus f1 f2) :=
  fun _ => .inl ⟨.bmstatus, [f1, f2], rfl, fun _ => rfl⟩

theorem init : Statement .init := fun _ => .inr ⟨_, _, rfl, fun _ => rfl⟩

theorem protolineAddress (n : Nat) : Statement (.protolineAddress n) :=
  fun _ => .inr ⟨_, _, rfl, fun _ => rfl⟩

theorem pictureLineAddress (n : Nat) : Statement (.pictureLineAddress n) :=
  fun _ => .inr ⟨_, _, rfl, fun _ => rfl⟩

theorem pixelAddress (x y : Nat) : Statement (.pixelAddress x y) := fun _ => .inr ⟨_, _, rfl, fun _ => rfl⟩

theorem writeIndexEntry (line kind value : Nat) : Statement (.writeIndexEntry line kind value) :=
  fun _ => .inr ⟨_, _, rfl, fun _ => rfl⟩

theorem fillProtoline (n offset count value : Nat) : Statement (.fillProtoline n offset count value) :=
  fun _ => .inr ⟨_, _, rfl, fun _ => rfl⟩

theorem setColorBurst (enable : Nat) : Statement (.setColorBurst enable) :=
  fun _ => .inr ⟨_, _, rfl, fun _ => rfl⟩

theorem writePixel (x y color : Nat) : Statement (.writePixel x y color) :=
  fun _ => .inr ⟨_, _, rfl, fun _ => rfl⟩

theorem readPixel (x y : Nat) : Statement (.readPixel x y) := fun _ => .inr ⟨_, _, rfl, fun _ => rfl⟩

theorem writeByte (a d : Nat) : Statement (.writeByte a d) := fun _ => .inr ⟨_, _, rfl, fun _ => rfl⟩

theorem writeWord (w v : Nat) : Statement (.writeWord w v) := fun _ => .inr ⟨_, _, rfl, fun _ => rfl⟩

theorem readByte (a : Nat) : Statement (.readByte a) := fun _ => .inr ⟨_, _, rfl, fun _ => rfl⟩

theorem blit (src dst width height stride : Nat) : Statement (.blit src dst width height stride) :=
  fun _ => .inr ⟨_, _, rfl, fun _ => rfl⟩

theorem blitSplit (src dst width height stride : Nat) : Statement (.blitSplit src dst width height stride) :=
  fun _ => .inr ⟨_, _, rfl, fun _ => rfl⟩

theorem waitIdle : Statement .waitIdle := fun _ => .inr ⟨_, _, rfl, fun _ => rfl⟩

theorem readStatus : Statement .readStatus := fun _ => .inr ⟨_, _, rfl, fun _ => rfl⟩

end Laws.EncodesItsFormat

end Sys2Proof
end

