-- ==== Sys2Proof/Laws/State.lean ====
section
/-! SUPPORT. One lemma for each field under each named update of the state, true by `rfl`, so that no proof unfolds a
record update. -/

namespace Sys2Proof.Machine

/-! `State.setChip` -/

@[simp] theorem State.setChip_cfg (s : State) (c : Chip) : (s.setChip c).cfg = s.cfg := rfl
@[simp] theorem State.setChip_chip (s : State) (c : Chip) : (s.setChip c).chip = c := rfl
@[simp] theorem State.setChip_block (s : State) (c : Chip) : (s.setChip c).block = s.block := rfl
@[simp] theorem State.setChip_faults (s : State) (c : Chip) : (s.setChip c).faults = s.faults := rfl
@[simp] theorem State.setChip_draws (s : State) (c : Chip) : (s.setChip c).draws = s.draws := rfl
@[simp] theorem State.setChip_moves (s : State) (c : Chip) : (s.setChip c).moves = s.moves := rfl
@[simp] theorem State.setChip_delay (s : State) (c : Chip) : (s.setChip c).delay = s.delay := rfl
@[simp] theorem State.setChip_busyPolls (s : State) (c : Chip) : (s.setChip c).busyPolls = s.busyPolls := rfl
@[simp] theorem State.setChip_response (s : State) (c : Chip) : (s.setChip c).response = s.response := rfl
@[simp] theorem State.setChip_result (s : State) (c : Chip) : (s.setChip c).result = s.result := rfl
@[simp] theorem State.setChip_sent (s : State) (c : Chip) : (s.setChip c).sent = s.sent := rfl
@[simp] theorem State.setChip_inputs (s : State) (c : Chip) : (s.setChip c).inputs = s.inputs := rfl
@[simp] theorem State.setChip_hostResetIn (s : State) (c : Chip) : (s.setChip c).hostResetIn = s.hostResetIn := rfl

/-! `State.setBlock` -/

@[simp] theorem State.setBlock_cfg (s : State) (b : Block) : (s.setBlock b).cfg = s.cfg := rfl
@[simp] theorem State.setBlock_chip (s : State) (b : Block) : (s.setBlock b).chip = s.chip := rfl
@[simp] theorem State.setBlock_block (s : State) (b : Block) : (s.setBlock b).block = b := rfl
@[simp] theorem State.setBlock_faults (s : State) (b : Block) : (s.setBlock b).faults = s.faults := rfl
@[simp] theorem State.setBlock_draws (s : State) (b : Block) : (s.setBlock b).draws = s.draws := rfl
@[simp] theorem State.setBlock_moves (s : State) (b : Block) : (s.setBlock b).moves = s.moves := rfl
@[simp] theorem State.setBlock_delay (s : State) (b : Block) : (s.setBlock b).delay = s.delay := rfl
@[simp] theorem State.setBlock_busyPolls (s : State) (b : Block) : (s.setBlock b).busyPolls = s.busyPolls := rfl
@[simp] theorem State.setBlock_response (s : State) (b : Block) : (s.setBlock b).response = s.response := rfl
@[simp] theorem State.setBlock_result (s : State) (b : Block) : (s.setBlock b).result = s.result := rfl
@[simp] theorem State.setBlock_sent (s : State) (b : Block) : (s.setBlock b).sent = s.sent := rfl
@[simp] theorem State.setBlock_inputs (s : State) (b : Block) : (s.setBlock b).inputs = s.inputs := rfl
@[simp] theorem State.setBlock_hostResetIn (s : State) (b : Block) : (s.setBlock b).hostResetIn = s.hostResetIn := rfl

/-! `State.setMem` -/

@[simp] theorem State.setMem_cfg (s : State) (m : Memory) : (s.setMem m).cfg = s.cfg := rfl
@[simp] theorem State.setMem_chip (s : State) (m : Memory) : (s.setMem m).chip = { s.chip with mem := m } := rfl
@[simp] theorem State.setMem_block (s : State) (m : Memory) : (s.setMem m).block = s.block := rfl
@[simp] theorem State.setMem_faults (s : State) (m : Memory) : (s.setMem m).faults = s.faults := rfl
@[simp] theorem State.setMem_draws (s : State) (m : Memory) : (s.setMem m).draws = s.draws := rfl
@[simp] theorem State.setMem_moves (s : State) (m : Memory) : (s.setMem m).moves = s.moves := rfl
@[simp] theorem State.setMem_delay (s : State) (m : Memory) : (s.setMem m).delay = s.delay := rfl
@[simp] theorem State.setMem_busyPolls (s : State) (m : Memory) : (s.setMem m).busyPolls = s.busyPolls := rfl
@[simp] theorem State.setMem_response (s : State) (m : Memory) : (s.setMem m).response = s.response := rfl
@[simp] theorem State.setMem_result (s : State) (m : Memory) : (s.setMem m).result = s.result := rfl
@[simp] theorem State.setMem_sent (s : State) (m : Memory) : (s.setMem m).sent = s.sent := rfl
@[simp] theorem State.setMem_inputs (s : State) (m : Memory) : (s.setMem m).inputs = s.inputs := rfl
@[simp] theorem State.setMem_hostResetIn (s : State) (m : Memory) : (s.setMem m).hostResetIn = s.hostResetIn := rfl

/-! `State.raise` -/

@[simp] theorem State.raise_cfg (s : State) (f : ChipFault) (b0 : Byte) (a : Option Nat) :
    (s.raise f b0 a).cfg = s.cfg := rfl
@[simp] theorem State.raise_chip (s : State) (f : ChipFault) (b0 : Byte) (a : Option Nat) :
    (s.raise f b0 a).chip = s.chip := rfl
@[simp] theorem State.raise_block (s : State) (f : ChipFault) (b0 : Byte) (a : Option Nat) :
    (s.raise f b0 a).block = s.block := rfl
@[simp] theorem State.raise_faults (s : State) (f : ChipFault) (b0 : Byte) (a : Option Nat) :
    (s.raise f b0 a).faults = if (⟨f, b0, a⟩ : FaultEntry) ∈ s.faults then s.faults else s.faults ++ [⟨f, b0, a⟩] := rfl
@[simp] theorem State.raise_draws (s : State) (f : ChipFault) (b0 : Byte) (a : Option Nat) :
    (s.raise f b0 a).draws = s.draws := rfl
@[simp] theorem State.raise_moves (s : State) (f : ChipFault) (b0 : Byte) (a : Option Nat) :
    (s.raise f b0 a).moves = s.moves := rfl
@[simp] theorem State.raise_delay (s : State) (f : ChipFault) (b0 : Byte) (a : Option Nat) :
    (s.raise f b0 a).delay = s.delay := rfl
@[simp] theorem State.raise_busyPolls (s : State) (f : ChipFault) (b0 : Byte) (a : Option Nat) :
    (s.raise f b0 a).busyPolls = s.busyPolls := rfl
@[simp] theorem State.raise_response (s : State) (f : ChipFault) (b0 : Byte) (a : Option Nat) :
    (s.raise f b0 a).response = s.response := rfl
@[simp] theorem State.raise_result (s : State) (f : ChipFault) (b0 : Byte) (a : Option Nat) :
    (s.raise f b0 a).result = s.result := rfl
@[simp] theorem State.raise_sent (s : State) (f : ChipFault) (b0 : Byte) (a : Option Nat) :
    (s.raise f b0 a).sent = s.sent := rfl
@[simp] theorem State.raise_inputs (s : State) (f : ChipFault) (b0 : Byte) (a : Option Nat) :
    (s.raise f b0 a).inputs = s.inputs := rfl
@[simp] theorem State.raise_hostResetIn (s : State) (f : ChipFault) (b0 : Byte) (a : Option Nat) :
    (s.raise f b0 a).hostResetIn = s.hostResetIn := rfl

/-! `State.fail` -/

@[simp] theorem State.fail_cfg (s : State) (e : Err) : (s.fail e).cfg = s.cfg := rfl
@[simp] theorem State.fail_chip (s : State) (e : Err) : (s.fail e).chip = s.chip := rfl
@[simp] theorem State.fail_block (s : State) (e : Err) :
    (s.fail e).block = { s.block with firstErr := if s.block.firstErr = .ok then e else s.block.firstErr } := rfl
@[simp] theorem State.fail_faults (s : State) (e : Err) : (s.fail e).faults = s.faults := rfl
@[simp] theorem State.fail_draws (s : State) (e : Err) : (s.fail e).draws = s.draws := rfl
@[simp] theorem State.fail_moves (s : State) (e : Err) : (s.fail e).moves = s.moves := rfl
@[simp] theorem State.fail_delay (s : State) (e : Err) : (s.fail e).delay = s.delay := rfl
@[simp] theorem State.fail_busyPolls (s : State) (e : Err) : (s.fail e).busyPolls = s.busyPolls := rfl
@[simp] theorem State.fail_response (s : State) (e : Err) : (s.fail e).response = s.response := rfl
@[simp] theorem State.fail_result (s : State) (e : Err) : (s.fail e).result = s.result := rfl
@[simp] theorem State.fail_sent (s : State) (e : Err) : (s.fail e).sent = s.sent := rfl
@[simp] theorem State.fail_inputs (s : State) (e : Err) : (s.fail e).inputs = s.inputs := rfl
@[simp] theorem State.fail_hostResetIn (s : State) (e : Err) : (s.fail e).hostResetIn = s.hostResetIn := rfl

/-! `State.respond` -/

@[simp] theorem State.respond_cfg (s : State) (r : List Byte) : (s.respond r).cfg = s.cfg := rfl
@[simp] theorem State.respond_chip (s : State) (r : List Byte) : (s.respond r).chip = s.chip := rfl
@[simp] theorem State.respond_block (s : State) (r : List Byte) : (s.respond r).block = s.block := rfl
@[simp] theorem State.respond_faults (s : State) (r : List Byte) : (s.respond r).faults = s.faults := rfl
@[simp] theorem State.respond_draws (s : State) (r : List Byte) : (s.respond r).draws = s.draws + r.length := rfl
@[simp] theorem State.respond_moves (s : State) (r : List Byte) : (s.respond r).moves = s.moves := rfl
@[simp] theorem State.respond_delay (s : State) (r : List Byte) : (s.respond r).delay = s.delay := rfl
@[simp] theorem State.respond_busyPolls (s : State) (r : List Byte) : (s.respond r).busyPolls = s.busyPolls := rfl
@[simp] theorem State.respond_response (s : State) (r : List Byte) : (s.respond r).response = r := rfl
@[simp] theorem State.respond_result (s : State) (r : List Byte) : (s.respond r).result = s.result := rfl
@[simp] theorem State.respond_sent (s : State) (r : List Byte) : (s.respond r).sent = s.sent := rfl
@[simp] theorem State.respond_inputs (s : State) (r : List Byte) : (s.respond r).inputs = s.inputs := rfl
@[simp] theorem State.respond_hostResetIn (s : State) (r : List Byte) :
    (s.respond r).hostResetIn = s.hostResetIn := rfl

/-! `State.respondDraws` -/

@[simp] theorem State.respondDraws_cfg (s : State) (n : Nat) : (s.respondDraws n).cfg = s.cfg := rfl
@[simp] theorem State.respondDraws_chip (s : State) (n : Nat) : (s.respondDraws n).chip = s.chip := rfl
@[simp] theorem State.respondDraws_block (s : State) (n : Nat) : (s.respondDraws n).block = s.block := rfl
@[simp] theorem State.respondDraws_faults (s : State) (n : Nat) : (s.respondDraws n).faults = s.faults := rfl
@[simp] theorem State.respondDraws_draws (s : State) (n : Nat) :
    (s.respondDraws n).draws = s.draws + (s.drawBytes n).length := rfl
@[simp] theorem State.respondDraws_moves (s : State) (n : Nat) : (s.respondDraws n).moves = s.moves := rfl
@[simp] theorem State.respondDraws_delay (s : State) (n : Nat) : (s.respondDraws n).delay = s.delay := rfl
@[simp] theorem State.respondDraws_busyPolls (s : State) (n : Nat) : (s.respondDraws n).busyPolls = s.busyPolls := rfl
@[simp] theorem State.respondDraws_response (s : State) (n : Nat) : (s.respondDraws n).response = s.drawBytes n := rfl
@[simp] theorem State.respondDraws_result (s : State) (n : Nat) : (s.respondDraws n).result = s.result := rfl
@[simp] theorem State.respondDraws_sent (s : State) (n : Nat) : (s.respondDraws n).sent = s.sent := rfl
@[simp] theorem State.respondDraws_inputs (s : State) (n : Nat) : (s.respondDraws n).inputs = s.inputs := rfl
@[simp] theorem State.respondDraws_hostResetIn (s : State) (n : Nat) :
    (s.respondDraws n).hostResetIn = s.hostResetIn := rfl

/-! `State.startMove` -/

@[simp] theorem State.startMove_cfg (s : State) (v : ActiveMove) : (s.startMove v).cfg = s.cfg := rfl
@[simp] theorem State.startMove_chip (s : State) (v : ActiveMove) :
    (s.startMove v).chip = { s.chip with active := some v, busy := true } := rfl
@[simp] theorem State.startMove_block (s : State) (v : ActiveMove) : (s.startMove v).block = s.block := rfl
@[simp] theorem State.startMove_faults (s : State) (v : ActiveMove) : (s.startMove v).faults = s.faults := rfl
@[simp] theorem State.startMove_draws (s : State) (v : ActiveMove) : (s.startMove v).draws = s.draws := rfl
@[simp] theorem State.startMove_moves (s : State) (v : ActiveMove) : (s.startMove v).moves = s.moves + 1 := rfl
@[simp] theorem State.startMove_delay (s : State) (v : ActiveMove) :
    (s.startMove v).delay = Config.engineDelay s.moves := rfl
@[simp] theorem State.startMove_busyPolls (s : State) (v : ActiveMove) : (s.startMove v).busyPolls = 0 := rfl
@[simp] theorem State.startMove_response (s : State) (v : ActiveMove) : (s.startMove v).response = s.response := rfl
@[simp] theorem State.startMove_result (s : State) (v : ActiveMove) : (s.startMove v).result = s.result := rfl
@[simp] theorem State.startMove_sent (s : State) (v : ActiveMove) : (s.startMove v).sent = s.sent := rfl
@[simp] theorem State.startMove_inputs (s : State) (v : ActiveMove) : (s.startMove v).inputs = s.inputs := rfl
@[simp] theorem State.startMove_hostResetIn (s : State) (v : ActiveMove) :
    (s.startMove v).hostResetIn = s.hostResetIn := rfl

/-! `State.countClip` -/

@[simp] theorem State.countClip_cfg (s : State) : (s.countClip).cfg = s.cfg := rfl
@[simp] theorem State.countClip_chip (s : State) : (s.countClip).chip = s.chip := rfl
@[simp] theorem State.countClip_block (s : State) :
    (s.countClip).block = { s.block with clipCount := clipSucc s.block.clipCount } := rfl
@[simp] theorem State.countClip_faults (s : State) : (s.countClip).faults = s.faults := rfl
@[simp] theorem State.countClip_draws (s : State) : (s.countClip).draws = s.draws := rfl
@[simp] theorem State.countClip_moves (s : State) : (s.countClip).moves = s.moves := rfl
@[simp] theorem State.countClip_delay (s : State) : (s.countClip).delay = s.delay := rfl
@[simp] theorem State.countClip_busyPolls (s : State) : (s.countClip).busyPolls = s.busyPolls := rfl
@[simp] theorem State.countClip_response (s : State) : (s.countClip).response = s.response := rfl
@[simp] theorem State.countClip_result (s : State) : (s.countClip).result = s.result := rfl
@[simp] theorem State.countClip_sent (s : State) : (s.countClip).sent = s.sent := rfl
@[simp] theorem State.countClip_inputs (s : State) : (s.countClip).inputs = s.inputs := rfl
@[simp] theorem State.countClip_hostResetIn (s : State) : (s.countClip).hostResetIn = s.hostResetIn := rfl

/-! `State.setPending` -/

@[simp] theorem State.setPending_cfg (s : State) (v : Bool) : (s.setPending v).cfg = s.cfg := rfl
@[simp] theorem State.setPending_chip (s : State) (v : Bool) : (s.setPending v).chip = s.chip := rfl
@[simp] theorem State.setPending_block (s : State) (v : Bool) :
    (s.setPending v).block = { s.block with movePending := v } := rfl
@[simp] theorem State.setPending_faults (s : State) (v : Bool) : (s.setPending v).faults = s.faults := rfl
@[simp] theorem State.setPending_draws (s : State) (v : Bool) : (s.setPending v).draws = s.draws := rfl
@[simp] theorem State.setPending_moves (s : State) (v : Bool) : (s.setPending v).moves = s.moves := rfl
@[simp] theorem State.setPending_delay (s : State) (v : Bool) : (s.setPending v).delay = s.delay := rfl
@[simp] theorem State.setPending_busyPolls (s : State) (v : Bool) : (s.setPending v).busyPolls = s.busyPolls := rfl
@[simp] theorem State.setPending_response (s : State) (v : Bool) : (s.setPending v).response = s.response := rfl
@[simp] theorem State.setPending_result (s : State) (v : Bool) : (s.setPending v).result = s.result := rfl
@[simp] theorem State.setPending_sent (s : State) (v : Bool) : (s.setPending v).sent = s.sent := rfl
@[simp] theorem State.setPending_inputs (s : State) (v : Bool) : (s.setPending v).inputs = s.inputs := rfl
@[simp] theorem State.setPending_hostResetIn (s : State) (v : Bool) :
    (s.setPending v).hostResetIn = s.hostResetIn := rfl

/-! `State.setBurstOn` -/

@[simp] theorem State.setBurstOn_cfg (s : State) (v : Bool) : (s.setBurstOn v).cfg = s.cfg := rfl
@[simp] theorem State.setBurstOn_chip (s : State) (v : Bool) : (s.setBurstOn v).chip = s.chip := rfl
@[simp] theorem State.setBurstOn_block (s : State) (v : Bool) :
    (s.setBurstOn v).block = { s.block with burstOn := v } := rfl
@[simp] theorem State.setBurstOn_faults (s : State) (v : Bool) : (s.setBurstOn v).faults = s.faults := rfl
@[simp] theorem State.setBurstOn_draws (s : State) (v : Bool) : (s.setBurstOn v).draws = s.draws := rfl
@[simp] theorem State.setBurstOn_moves (s : State) (v : Bool) : (s.setBurstOn v).moves = s.moves := rfl
@[simp] theorem State.setBurstOn_delay (s : State) (v : Bool) : (s.setBurstOn v).delay = s.delay := rfl
@[simp] theorem State.setBurstOn_busyPolls (s : State) (v : Bool) : (s.setBurstOn v).busyPolls = s.busyPolls := rfl
@[simp] theorem State.setBurstOn_response (s : State) (v : Bool) : (s.setBurstOn v).response = s.response := rfl
@[simp] theorem State.setBurstOn_result (s : State) (v : Bool) : (s.setBurstOn v).result = s.result := rfl
@[simp] theorem State.setBurstOn_sent (s : State) (v : Bool) : (s.setBurstOn v).sent = s.sent := rfl
@[simp] theorem State.setBurstOn_inputs (s : State) (v : Bool) : (s.setBurstOn v).inputs = s.inputs := rfl
@[simp] theorem State.setBurstOn_hostResetIn (s : State) (v : Bool) :
    (s.setBurstOn v).hostResetIn = s.hostResetIn := rfl

/-! `State.beginOp` -/

@[simp] theorem State.beginOp_cfg (s : State) : (s.beginOp).cfg = s.cfg := rfl
@[simp] theorem State.beginOp_chip (s : State) : (s.beginOp).chip = s.chip := rfl
@[simp] theorem State.beginOp_block (s : State) : (s.beginOp).block = s.block := rfl
@[simp] theorem State.beginOp_faults (s : State) : (s.beginOp).faults = s.faults := rfl
@[simp] theorem State.beginOp_draws (s : State) : (s.beginOp).draws = s.draws := rfl
@[simp] theorem State.beginOp_moves (s : State) : (s.beginOp).moves = s.moves := rfl
@[simp] theorem State.beginOp_delay (s : State) : (s.beginOp).delay = s.delay := rfl
@[simp] theorem State.beginOp_busyPolls (s : State) : (s.beginOp).busyPolls = s.busyPolls := rfl
@[simp] theorem State.beginOp_response (s : State) : (s.beginOp).response = s.response := rfl
@[simp] theorem State.beginOp_result (s : State) : (s.beginOp).result = none := rfl
@[simp] theorem State.beginOp_sent (s : State) : (s.beginOp).sent = [] := rfl
@[simp] theorem State.beginOp_inputs (s : State) : (s.beginOp).inputs = s.inputs := rfl
@[simp] theorem State.beginOp_hostResetIn (s : State) : (s.beginOp).hostResetIn = s.hostResetIn := rfl

/-! `State.hostReset` -/

@[simp] theorem State.hostReset_cfg (s : State) : (s.hostReset).cfg = s.cfg := rfl
@[simp] theorem State.hostReset_chip (s : State) : (s.hostReset).chip = s.chip := rfl
@[simp] theorem State.hostReset_block (s : State) : (s.hostReset).block = Block.reset := rfl
@[simp] theorem State.hostReset_faults (s : State) : (s.hostReset).faults = s.faults := rfl
@[simp] theorem State.hostReset_draws (s : State) : (s.hostReset).draws = s.draws := rfl
@[simp] theorem State.hostReset_moves (s : State) : (s.hostReset).moves = s.moves := rfl
@[simp] theorem State.hostReset_delay (s : State) : (s.hostReset).delay = s.delay := rfl
@[simp] theorem State.hostReset_busyPolls (s : State) : (s.hostReset).busyPolls = s.busyPolls := rfl
@[simp] theorem State.hostReset_response (s : State) : (s.hostReset).response = s.response := rfl
@[simp] theorem State.hostReset_result (s : State) : (s.hostReset).result = none := rfl
@[simp] theorem State.hostReset_sent (s : State) : (s.hostReset).sent = s.sent := rfl
@[simp] theorem State.hostReset_inputs (s : State) : (s.hostReset).inputs = s.inputs := rfl
@[simp] theorem State.hostReset_hostResetIn (s : State) : (s.hostReset).hostResetIn = none := rfl

/-! `State.withRequest` -/

@[simp] theorem State.withRequest_cfg (s : State) (r : Request) : (s.withRequest r).cfg = s.cfg := rfl
@[simp] theorem State.withRequest_chip (s : State) (r : Request) : (s.withRequest r).chip = s.chip := rfl
@[simp] theorem State.withRequest_block (s : State) (r : Request) : (s.withRequest r).block = s.block := rfl
@[simp] theorem State.withRequest_faults (s : State) (r : Request) : (s.withRequest r).faults = s.faults := rfl
@[simp] theorem State.withRequest_draws (s : State) (r : Request) : (s.withRequest r).draws = s.draws := rfl
@[simp] theorem State.withRequest_moves (s : State) (r : Request) : (s.withRequest r).moves = s.moves := rfl
@[simp] theorem State.withRequest_delay (s : State) (r : Request) : (s.withRequest r).delay = s.delay := rfl
@[simp] theorem State.withRequest_busyPolls (s : State) (r : Request) :
    (s.withRequest r).busyPolls = s.busyPolls := rfl
@[simp] theorem State.withRequest_response (s : State) (r : Request) : (s.withRequest r).response = s.response := rfl
@[simp] theorem State.withRequest_result (s : State) (r : Request) : (s.withRequest r).result = s.result := rfl
@[simp] theorem State.withRequest_sent (s : State) (r : Request) : (s.withRequest r).sent = s.sent := rfl
@[simp] theorem State.withRequest_inputs (s : State) (r : Request) : (s.withRequest r).inputs = [.request r] := rfl
@[simp] theorem State.withRequest_hostResetIn (s : State) (r : Request) : (s.withRequest r).hostResetIn = none := rfl

/-! `State.complete` (R413): only the SRAM and `BUSY` change -/

@[simp] theorem State.complete_cfg (s : State) : s.complete.cfg = s.cfg := rfl
@[simp] theorem State.complete_block (s : State) : s.complete.block = s.block := rfl
@[simp] theorem State.complete_faults (s : State) : s.complete.faults = s.faults := rfl
@[simp] theorem State.complete_draws (s : State) : s.complete.draws = s.draws := rfl
@[simp] theorem State.complete_moves (s : State) : s.complete.moves = s.moves := rfl
@[simp] theorem State.complete_delay (s : State) : s.complete.delay = s.delay := rfl
@[simp] theorem State.complete_busyPolls (s : State) : s.complete.busyPolls = s.busyPolls := rfl
@[simp] theorem State.complete_response (s : State) : s.complete.response = s.response := rfl
@[simp] theorem State.complete_result (s : State) : s.complete.result = s.result := rfl
@[simp] theorem State.complete_sent (s : State) : s.complete.sent = s.sent := rfl
@[simp] theorem State.complete_inputs (s : State) : s.complete.inputs = s.inputs := rfl
@[simp] theorem State.complete_hostResetIn (s : State) : s.complete.hostResetIn = s.hostResetIn := rfl
@[simp] theorem State.complete_busy (s : State) : s.complete.chip.busy = false := rfl
@[simp] theorem State.complete_registers (s : State) :
    { s.complete.chip with mem := s.chip.mem, busy := s.chip.busy } = s.chip := rfl

@[simp] theorem State.drawBytes_length (s : State) (n : Nat) : (s.drawBytes n).length = n := by
  simp [State.drawBytes]

end Sys2Proof.Machine
end

