-- ==== Sys2Proof/Laws/Memory.lean ====
section
/-! SUPPORT. The laws of the SRAM: what a read gives after each operation that changes a byte, and that every operation
keeps the canonical form. -/

namespace Sys2Proof.Machine

/-! ## Reading -/

@[simp] theorem Memory.read_nil (x : Nat) : Memory.read [] x = none := rfl

theorem Memory.read_cons (c : Host.Cell) (m : Memory) (x : Nat) :
    Memory.read (c :: m) x = if c.1 = x then some c.2 else Memory.read m x := by
  unfold Memory.read
  by_cases h : c.1 = x <;> simp [h]

theorem Memory.read_append (m n : Memory) (x : Nat) :
    Memory.read (m ++ n) x = (Memory.read m x).or (Memory.read n x) := by
  induction m with
  | nil => simp
  | cons c m ih => simp only [List.cons_append, Memory.read_cons, ih]; split <;> simp

theorem Memory.read_filter (p : Nat → Bool) (m : Memory) (x : Nat) :
    Memory.read (m.filter fun c => p c.1) x = if p x then Memory.read m x else none := by
  induction m with
  | nil => simp
  | cons c m ih =>
    by_cases hc : p c.1 <;> by_cases hx : c.1 = x <;> simp_all [Memory.read_cons]

/-- The bytes of a transfer, read back. -/
theorem Memory.read_cells (a : Nat) (bs : List Byte) (x : Nat) :
    Memory.read (Memory.cells a bs) x = if a ≤ x ∧ x < a + bs.length then bs[x - a]? else none := by
  induction bs generalizing a with
  | nil => simp [Memory.cells]
  | cons b bs ih =>
    simp only [Memory.cells, Memory.read_cons, ih, List.length_cons]
    by_cases h : a = x
    · subst h; simp
    · by_cases h' : a + 1 ≤ x
      · have : x - a = (x - (a + 1)) + 1 := by omega
        simp [h, h', show a ≤ x by omega, this, Nat.add_assoc, Nat.add_comm 1]
      · simp [h, h', show ¬ a ≤ x by omega]

/-- A store and a read: the bytes stored where they lie, the byte before elsewhere (R205). -/
theorem Memory.read_write (m : Memory) (a : Nat) (bs : List Byte) (x : Nat) :
    Memory.read (Memory.write m a bs) x =
      if a ≤ x ∧ x < a + bs.length then bs[x - a]? else Memory.read m x := by
  unfold Memory.write
  rw [Memory.read_append, Memory.read_append, Memory.read_cells,
    Memory.read_filter (fun y => decide (y < a)), Memory.read_filter (fun y => decide (a + bs.length ≤ y))]
  by_cases h1 : a ≤ x
  · by_cases h2 : x < a + bs.length
    · have : x - a < bs.length := by omega
      simp [h1, h2, List.getElem?_eq_getElem this, show ¬ x < a by omega]
    · simp [h1, h2, show a + bs.length ≤ x by omega, show ¬ x < a by omega]
  · simp [h1, show x < a by omega, show ¬ a + bs.length ≤ x by omega]

/-- One cell set and a read (R413). -/
theorem Memory.read_put (m : Memory) (a : Nat) (v : Option Byte) (x : Nat) :
    Memory.read (Memory.put m a v) x = if x = a then v else Memory.read m x := by
  unfold Memory.put
  rw [Memory.read_append, Memory.read_append, Memory.read_filter (fun y => decide (y < a)),
    Memory.read_filter (fun y => decide (a < y))]
  rcases Nat.lt_trichotomy x a with h | h | h
  · cases v <;> simp [Memory.read_cons, h, show ¬ a < x by omega, show x ≠ a by omega, show a ≠ x by omega]
  · subst h; cases v <;> simp [Memory.read_cons]
  · cases v <;> simp [Memory.read_cons, h, show ¬ x < a by omega, show x ≠ a by omega, show a ≠ x by omega]

/-! ## The canonical form -/

theorem Memory.wf_nil : Memory.wf [] := by simp [Memory.wf]

theorem Memory.mem_cells {a : Nat} {bs : List Byte} {c : Host.Cell} (h : c ∈ Memory.cells a bs) :
    a ≤ c.1 ∧ c.1 < a + bs.length := by
  induction bs generalizing a with
  | nil => simp [Memory.cells] at h
  | cons b bs ih =>
    simp only [Memory.cells, List.mem_cons] at h
    simp only [List.length_cons]
    rcases h with rfl | h
    · simp
    · have := ih h; omega

theorem Memory.pairwise_cells (a : Nat) (bs : List Byte) :
    (Memory.cells a bs).Pairwise fun c d => c.1 < d.1 := by
  induction bs generalizing a with
  | nil => simp [Memory.cells]
  | cons b bs ih =>
    simp only [Memory.cells, List.pairwise_cons]
    exact ⟨fun c hc => by have := Memory.mem_cells hc; omega, ih _⟩

/-- A store inside the SRAM keeps the canonical form. -/
theorem Memory.wf_write {m : Memory} (hm : Memory.wf m) {a : Nat} {bs : List Byte} (h : a + bs.length ≤ 131072) :
    Memory.wf (Memory.write m a bs) := by
  obtain ⟨hs, hb⟩ := hm
  unfold Memory.write
  refine ⟨?_, ?_⟩
  · rw [List.pairwise_append, List.pairwise_append]
    refine ⟨⟨hs.filter _, Memory.pairwise_cells a bs, ?_⟩, hs.filter _, ?_⟩
    · intro c hc d hd
      have := Memory.mem_cells hd
      simp at hc; omega
    · intro c hc d hd
      simp only [List.mem_append, List.mem_filter, decide_eq_true_eq] at hc hd
      rcases hc with hc | hc
      · omega
      · have := Memory.mem_cells hc; omega
  · intro c hc
    simp only [List.mem_append, List.mem_filter] at hc
    rcases hc with (⟨hc, -⟩ | hc) | ⟨hc, -⟩
    · exact hb c hc
    · have := Memory.mem_cells hc; omega
    · exact hb c hc

/-- Setting or clearing one cell keeps the canonical form. -/
theorem Memory.wf_put {m : Memory} (hm : Memory.wf m) {a : Nat} (v : Option Byte) (h : a < 131072) :
    Memory.wf (Memory.put m a v) := by
  obtain ⟨hs, hb⟩ := hm
  unfold Memory.put
  refine ⟨?_, ?_⟩
  · rw [List.pairwise_append, List.pairwise_append]
    refine ⟨⟨hs.filter _, by cases v <;> simp, ?_⟩, hs.filter _, ?_⟩
    · intro c hc d hd
      cases v <;> simp at hc hd
      subst hd; exact hc.2
    · intro c hc d hd
      simp only [List.mem_append, List.mem_filter, decide_eq_true_eq] at hc hd
      rcases hc with hc | hc
      · omega
      · cases v <;> simp at hc
        subst hc; exact hd.2
  · intro c hc
    simp only [List.mem_append, List.mem_filter] at hc
    rcases hc with (⟨hc, -⟩ | hc) | ⟨hc, -⟩
    · exact hb c hc
    · cases v <;> simp at hc
      subst hc; exact h
    · exact hb c hc

/-- Two memories in canonical form that read alike are equal: equal memories are equal data. -/
theorem Memory.eq_of_read {m n : Memory} (hm : m.Pairwise fun c d => c.1 < d.1)
    (hn : n.Pairwise fun c d => c.1 < d.1) (h : ∀ x, Memory.read m x = Memory.read n x) : m = n := by
  have unlisted : ∀ (l : Memory) (x : Nat), (∀ c ∈ l, x < c.1) → Memory.read l x = none := by
    intro l x hl
    induction l with
    | nil => rfl
    | cons c l ih =>
      have := hl c (by simp)
      rw [Memory.read_cons, if_neg (by omega), ih fun d hd => hl d (by simp [hd])]
  induction m generalizing n with
  | nil =>
    cases n with
    | nil => rfl
    | cons d n => have := h d.1; simp [Memory.read_cons] at this
  | cons c m ih =>
    cases n with
    | nil => have := h c.1; simp [Memory.read_cons] at this
    | cons d n =>
      rw [List.pairwise_cons] at hm hn
      have hc := h c.1
      have hd := h d.1
      simp only [Memory.read_cons, if_true] at hc hd
      rcases Nat.lt_trichotomy c.1 d.1 with hlt | heq | hgt
      · rw [if_neg (by omega), unlisted n c.1 fun e he => Nat.lt_trans hlt (hn.1 e he)] at hc
        simp at hc
      · have hcd : c = d := by
          rw [if_pos heq.symm] at hc
          exact Prod.ext heq (by simpa using hc)
        subst hcd
        refine congrArg _ (ih hm.2 hn.2 fun x => ?_)
        have hx := h x
        simp only [Memory.read_cons] at hx
        split at hx
        · subst x; rw [unlisted m _ hm.1, unlisted n _ hn.1]
        · exact hx
      · rw [if_neg (by omega), unlisted m d.1 fun e he => Nat.lt_trans hgt (hm.1 e he)] at hd
        simp at hd

/-! ## The engine -/

theorem ActiveMove.at_lt (v : ActiveMove) (base : BitVec 17) (o : Nat) : v.at base o < 131072 := by
  unfold ActiveMove.at
  exact BitVec.isLt _

/-- A move keeps the canonical form (R413). -/
theorem ActiveMove.wf_run (v : ActiveMove) {m : Memory} (hm : Memory.wf m) : Memory.wf (v.run m) := by
  unfold ActiveMove.run
  induction v.offsets generalizing m with
  | nil => exact hm
  | cons o os ih => exact ih (Memory.wf_put hm _ (v.at_lt _ _))

/-- The address of an offset in a move that lies inside the SRAM (R412): counted up from the first byte, or down from
the last. -/
theorem ActiveMove.at_src {v : ActiveMove} (hv : v.fits) {o : Nat} (ho : o ∈ v.offsets) :
    v.at v.src o = if v.dir then v.src.toNat - o else v.src.toNat + o := by
  have := hv o ho
  have hs := v.src.isLt
  unfold ActiveMove.at
  cases hd : v.dir <;> simp only [hd, if_true, if_false, Bool.false_eq_true] at this ⊢
  · simp; omega
  · simp; omega

/-- As `ActiveMove.at_src`, on the destination side. -/
theorem ActiveMove.at_dst {v : ActiveMove} (hv : v.fits) {o : Nat} (ho : o ∈ v.offsets) :
    v.at v.dst o = if v.dir then v.dst.toNat - o else v.dst.toNat + o := by
  have := hv o ho
  have hs := v.dst.isLt
  unfold ActiveMove.at
  cases hd : v.dir <;> simp only [hd, if_true, if_false, Bool.false_eq_true] at this ⊢
  · simp; omega
  · simp; omega

/-- Completion keeps the canonical form (R413). -/
theorem State.wf_complete {s : State} (h : Memory.wf s.chip.mem) : Memory.wf s.complete.chip.mem := by
  unfold State.complete
  cases ha : s.chip.active with
  | none => simpa [ha] using h
  | some v => simpa [ha] using v.wf_run h

/-- The SRAM at reset has the canonical form (R33, R500). -/
theorem State.reset_mem_wf : Memory.wf State.reset.chip.mem := Memory.wf_nil

end Sys2Proof.Machine
end

