-- ==== Sys2Proof/Laws/Ports.lean ====
section
/-! SUPPORT. What each operation of the chip command port can do, said once: the checks in the terms of the rules, what
a frame leaves alone, and the transfer before it. -/

namespace Sys2Proof.Machine

/-! ## Checks -/

/-- R197's address check, in numbers. -/
theorem transferOutside_iff (a : BitVec 24) {k : Nat} (hk : 1 ≤ k) :
    transferOutside a k = true ↔ 131072 < a.toNat + k := by
  have h : (a.extractLsb' 17 7 != 0) = true ↔ 131072 ≤ a.toNat := by
    have ha := a.isLt
    rw [bne_iff_ne, ne_eq, ← BitVec.toNat_inj]
    simp [Nat.shiftRight_eq_div_pow]
    omega
  unfold transferOutside
  rw [Bool.or_eq_true, h, decide_eq_true_eq]
  omega

/-- A memory frame passes its checks exactly when the chip is set for it, no move runs and the transfer lies inside the
SRAM (R194–R197). -/
theorem State.memoryFault_eq_none (s : State) (a : BitVec 24) {k : Nat} (hk : 1 ≤ k) :
    s.memoryFault a k = none ↔ s.memoryModeSet ∧ s.chip.busy = false ∧ a.toNat + k ≤ 131072 := by
  have ho := transferOutside_iff a hk
  unfold State.memoryFault State.memoryModeSet
  by_cases h1 : s.chip.mode = some 1 <;>
    by_cases h2 : s.chip.multiic.map BitVec.toNat = some s.cfg.multiicOff <;>
    cases h3 : s.chip.busy <;> cases h4 : transferOutside a k <;> simp_all

theorem append_ofBool_toNat (w : Half) (b : Bool) : (w ++ BitVec.ofBool b : BitVec 17).toNat = 2 * w.toNat + b.toNat := by
  rw [BitVec.toNat_append, ← Nat.shiftLeft_add_eq_or_of_lt (BitVec.isLt _), Nat.shiftLeft_eq]
  cases b <;> simp <;> omega

/-- The block-move byte addresses, in numbers (R130). -/
theorem Bmc1.src_toNat (p : Bmc1) : p.src.toNat = 2 * p.srcW.toNat + p.srcOdd.toNat := append_ofBool_toNat _ _

/-- As `Bmc1.src_toNat`, for the destination. -/
theorem Bmc1.dst_toNat (p : Bmc1) : p.dst.toNat = 2 * p.dstW.toNat + p.dstOdd.toNat := append_ofBool_toNat _ _

/-- The fault of a memory frame names the frame's address (R468). -/
theorem State.faultAddress_memory (s : State) (a : BitVec 24) (data : List Byte) :
    s.faultAddress .write (addr24 a ++ data) = some a.toNat ∧ s.faultAddress .read (addr24 a ++ data) = some a.toNat := by
  have h := congrArg (fun x => some x.toNat) (addr24_append a)
  exact ⟨h, h⟩

/-- What the checks of `BMSTART` answer when they accept: the latched shadow fields, of a move inside the SRAM (R213). -/
theorem State.startCheck_eq_ok {s : State} {v : ActiveMove} (h : s.startCheck = .ok v) :
    s.chip.busy = false ∧ ∃ p q, s.chip.bmc1 = some p ∧ s.chip.bmc2 = some q ∧ v = latch p q ∧ q.width.toNat ≠ 0 ∧
      moveOutside p.dir p.src.toNat p.dst.toNat
        (rectSpan q.width.toNat (q.hm1.toNat + 1) q.stride.toNat) = false ∧
      moveUnreliable s.cfg p.src.toNat p.dst.toNat q.width.toNat (q.hm1.toNat + 1) q.stride.toNat = false := by
  unfold State.startCheck at h
  split at h
  · simp at h
  · rename_i hb
    split at h
    · rename_i p q hp hq
      dsimp only at h
      split at h
      · simp at h
      · split at h
        · simp at h
        · split at h
          · simp at h
          · simp only [Except.ok.injEq] at h
            exact ⟨by simpa using hb, p, q, hp, hq, h.symm, by assumption, by simpa using ‹¬ moveOutside _ _ _ _ = true›,
              by simpa using ‹¬ moveUnreliable _ _ _ _ _ _ = true›⟩
    · simp at h

/-- The latched height is 1 to 256 (R46, R47). -/
theorem latch_height (p : Bmc1) (q : Bmc2) : (latch p q).height.toNat = q.hm1.toNat + 1 := by
  have := q.hm1.isLt
  simp [latch]
  omega

theorem ActiveMove.mem_offsets {v : ActiveMove} {o : Nat} :
    o ∈ v.offsets ↔ ∃ r c, r < v.height.toNat ∧ c < v.width.toNat ∧ o = r * v.stride.toNat + c := by
  unfold ActiveMove.offsets
  simp only [List.mem_flatMap, List.mem_range, List.mem_map]
  constructor
  · rintro ⟨r, hr, c, hc, rfl⟩; exact ⟨r, c, hr, hc, rfl⟩
  · rintro ⟨r, c, hr, hc, rfl⟩; exact ⟨r, hr, c, hc, rfl⟩

/-- No offset of a move passes the last byte of its rectangle (R213). -/
theorem ActiveMove.offset_le {v : ActiveMove} {o : Nat} (h : o ∈ v.offsets) :
    o ≤ rectSpan v.width.toNat v.height.toNat v.stride.toNat := by
  obtain ⟨r, c, hr, hc, rfl⟩ := ActiveMove.mem_offsets.mp h
  unfold rectSpan
  exact Nat.add_le_add (Nat.mul_le_mul_right _ (by omega)) (by omega)

/-- A move the checks of `BMSTART` accept lies inside the SRAM (R213, R469). -/
theorem State.startCheck_fits {s : State} {v : ActiveMove} (h : s.startCheck = .ok v) : v.fits := by
  obtain ⟨-, p, q, -, -, rfl, -, hout, -⟩ := State.startCheck_eq_ok h
  intro o ho
  have hle := ActiveMove.offset_le ho
  rw [latch_height] at hle
  change o ≤ rectSpan q.width.toNat (q.hm1.toNat + 1) q.stride.toNat at hle
  change if p.dir = true then o ≤ p.src.toNat ∧ o ≤ p.dst.toNat
    else p.src.toNat + o < 131072 ∧ p.dst.toNat + o < 131072
  unfold moveOutside at hout
  split at hout <;> rename_i hd <;> simp only [hd, if_true, if_false, Bool.false_eq_true] <;> simp at hout <;> omega

/-! ## What a frame leaves alone -/

/-- What no frame changes: the configuration, the block layer, and what a host op keeps for itself. -/
def State.sameHost (s t : State) : Prop :=
  t.cfg = s.cfg ∧ t.block = s.block ∧ t.sent = s.sent ∧ t.result = s.result ∧ t.inputs = s.inputs ∧
  t.hostResetIn = s.hostResetIn

theorem State.sameHost_refl (s : State) : s.sameHost s := ⟨rfl, rfl, rfl, rfl, rfl, rfl⟩

theorem State.registerFrame_sameHost (s : State) (n : Nat) (c : Cmd) (f : Option ChipFault) (w : Chip) :
    s.sameHost (s.registerFrame n c f w) := by
  cases f <;> exact ⟨rfl, rfl, rfl, rfl, rfl, rfl⟩

theorem State.portInstr_sameHost (s : State) (i : Instr) : s.sameHost (s.portInstr i) := by
  cases i
  case write a data =>
    simp only [State.portInstr, State.portWrite]
    split
    · exact ⟨rfl, rfl, rfl, rfl, rfl, rfl⟩
    · split <;> exact ⟨rfl, rfl, rfl, rfl, rfl, rfl⟩
  case read a filler =>
    simp only [State.portInstr, State.portRead]
    split
    · exact ⟨rfl, rfl, rfl, rfl, rfl, rfl⟩
    · split
      · exact ⟨rfl, rfl, rfl, rfl, rfl, rfl⟩
      · split <;> exact ⟨rfl, rfl, rfl, rfl, rfl, rfl⟩
  case bmstart =>
    simp only [State.portInstr, State.portBmstart]
    split <;> exact ⟨rfl, rfl, rfl, rfl, rfl, rfl⟩
  all_goals first
    | exact State.registerFrame_sameHost _ _ _ _ _
    | exact ⟨rfl, rfl, rfl, rfl, rfl, rfl⟩

theorem State.portFrame_sameHost (s : State) (bytes : List Byte) : s.sameHost (s.portFrame bytes) := by
  unfold State.portFrame
  split
  · exact State.portInstr_sameHost _ _
  all_goals exact ⟨rfl, rfl, rfl, rfl, rfl, rfl⟩

/-! ## The transfer -/

/-- What the engine does between two frames: nothing, its completion step, or one more frame of delay (R410). -/
theorem State.engineGap_cases (s : State) (statusNext : Bool) :
    (s.chip.busy = false ∧ s.engineGap statusNext = s) ∨
    (s.chip.busy = true ∧ (s.delay = 0 ∨ (statusNext = true ∧ s.pollBoundReached = true)) ∧
      s.engineGap statusNext = s.complete) ∨
    (s.chip.busy = true ∧ s.delay ≠ 0 ∧ ¬(statusNext = true ∧ s.pollBoundReached = true) ∧
      s.engineGap statusNext = { s with delay := s.delay - 1 }) := by
  unfold State.engineGap
  cases hb : s.chip.busy
  · simp
  · by_cases h : s.delay = 0 ∨ (statusNext = true ∧ s.pollBoundReached = true)
    · simp [h]
    · refine .inr (.inr ⟨rfl, fun h0 => h (.inl h0), fun hh => h (.inr hh), ?_⟩)
      simp [h]

/-- What a transfer leaves alone: everything of the host but the count of a `HOST_RESET` on its way (R501). -/
theorem State.transfer_host (s : State) (bytes : List Byte) :
    (s.transfer bytes).cfg = s.cfg ∧ (s.transfer bytes).block = s.block ∧ (s.transfer bytes).sent = s.sent ∧
    (s.transfer bytes).result = s.result ∧ (s.transfer bytes).inputs = s.inputs ∧
    (s.transfer bytes).faults = s.faults ∧ (s.transfer bytes).draws = s.draws ∧
    (s.transfer bytes).hostResetIn = s.hostResetIn.map (· - 1) := by
  unfold State.transfer
  rcases State.engineGap_cases s (isStatusFrame s.cfg.opmap bytes) with ⟨-, h⟩ | ⟨-, -, h⟩ | ⟨-, -, -, h⟩ <;> rw [h] <;>
    simp

/-- With no move running, a transfer changes nothing of the chip but `SELECT`, which is 0 after it (R161). -/
theorem State.transfer_idle {s : State} (h : s.chip.busy = false) (bytes : List Byte) :
    s.transfer bytes =
      { s with chip := { s.chip with select := false }, hostResetIn := s.hostResetIn.map (· - 1) } := by
  simp [State.transfer, State.engineGap, h, State.setChip]

/-- With a move running and delay left, the transfer of any frame but a status frame changes nothing but `SELECT` and
the delay, which is one frame less (R410). -/
theorem State.transfer_delayed {s : State} (hb : s.chip.busy = true) (hd : s.delay ≠ 0) {bytes : List Byte}
    (hs : isStatusFrame s.cfg.opmap bytes = false) :
    s.transfer bytes =
      { s with
        chip := { s.chip with select := false }
        delay := s.delay - 1
        hostResetIn := s.hostResetIn.map (· - 1) } := by
  simp [State.transfer, State.engineGap, hb, hd, hs, State.setChip]

/-- No transfer changes what the SRAM holds once the move has completed (R413). -/
theorem State.transfer_settledMem (s : State) (bytes : List Byte) :
    (s.transfer bytes).settledMem = s.settledMem := by
  unfold State.transfer
  rcases State.engineGap_cases s (isStatusFrame s.cfg.opmap bytes) with ⟨hb, h⟩ | ⟨hb, -, h⟩ | ⟨hb, -, -, h⟩ <;> rw [h] <;>
    simp [State.settledMem, hb, State.complete]

/-- No transfer changes a register (R413). -/
theorem State.transfer_registers (s : State) (bytes : List Byte) :
    (s.transfer bytes).chip.registers = s.chip.registers := by
  unfold State.transfer
  rcases State.engineGap_cases s (isStatusFrame s.cfg.opmap bytes) with ⟨-, h⟩ | ⟨-, -, h⟩ | ⟨-, -, -, h⟩ <;> rw [h] <;>
    simp [Chip.registers, State.complete]

/-- A transfer starts no move (R47). -/
theorem State.transfer_busy {s : State} {bytes : List Byte} (h : (s.transfer bytes).chip.busy = true) :
    s.chip.busy = true := by
  unfold State.transfer at h
  rcases State.engineGap_cases s (isStatusFrame s.cfg.opmap bytes) with ⟨hb, h'⟩ | ⟨hb, -, h'⟩ | ⟨hb, -, -, h'⟩ <;>
    rw [h'] at h <;> simp_all

end Sys2Proof.Machine
end

