-- ==== Sys2Proof/Laws/Run.lean ====
section
/-! SUPPORT. What a host op can do, said once: it sends frames and changes the block layer's few fields, and nothing
else. A relation that each of these keeps holds between the state a host op starts in and the state it ends in. -/

namespace Sys2Proof.Machine

/-! ## Runs -/

@[simp] theorem Run.andThen_ok {α β : Type} (a : α) (s : State) (k : α → State → Run β) :
    (Run.ok a s).andThen k = k a s := rfl

@[simp] theorem Run.andThen_err {α β : Type} (e : Err) (s : State) (k : α → State → Run β) :
    (Run.err e s : Run α).andThen k = .err e s := rfl

@[simp] theorem Run.andThen_cut {α β : Type} (s : State) (k : α → State → Run β) :
    (Run.cut s : Run α).andThen k = .cut s := rfl

/-- The state a run ends in. -/
def Run.last {α : Type} : Run α → State
  | .ok _ s | .err _ s | .cut s => s

@[simp] theorem Run.last_ok {α : Type} (a : α) (s : State) : (Run.ok a s).last = s := rfl
@[simp] theorem Run.last_err {α : Type} (e : Err) (s : State) : (Run.err e s : Run α).last = s := rfl
@[simp] theorem Run.last_cut {α : Type} (s : State) : (Run.cut s : Run α).last = s := rfl

/-! ## Sending a frame -/

/-- The state after one frame (R161): transferred, executed, and noted as sent. -/
def State.sendFrame (s : State) (bytes : List Byte) : State :=
  let t := (s.transfer bytes).portFrame bytes
  { t with sent := t.sent ++ [bytes] }

/-- `EMIT` sends its frame unless a `HOST_RESET` is due (R161, R501). -/
theorem State.emit_eq {s : State} (h : s.hostResetIn ≠ some 0) (i : Instr) :
    s.emit i = .ok (s.sendFrame (frameBytes s.cfg.opmap i)).response (s.sendFrame (frameBytes s.cfg.opmap i)) := by
  unfold State.emit
  split
  · contradiction
  · rfl

theorem State.emit_cut {s : State} (h : s.hostResetIn = some 0) (i : Instr) : s.emit i = .cut s := by
  simp [State.emit, h]

/-- What sending a frame leaves alone (R160, R161). -/
theorem State.sendFrame_host (s : State) (bytes : List Byte) :
    (s.sendFrame bytes).cfg = s.cfg ∧ (s.sendFrame bytes).block = s.block ∧
    (s.sendFrame bytes).sent = s.sent ++ [bytes] ∧ (s.sendFrame bytes).result = s.result ∧
    (s.sendFrame bytes).inputs = s.inputs ∧ (s.sendFrame bytes).hostResetIn = s.hostResetIn.map (· - 1) := by
  obtain ⟨t1, t2, t3, t4, t5, -, -, t8⟩ := s.transfer_host bytes
  obtain ⟨p1, p2, p3, p4, p5, p6⟩ := (s.transfer bytes).portFrame_sameHost bytes
  exact ⟨p1.trans t1, p2.trans t2, by simp [State.sendFrame, p3, t3], p4.trans t4, p5.trans t5, p6.trans t8⟩

/-! ## Every host op -/

/-- A relation between states that each part of a host op keeps: it holds of a state and itself, across a frame sent, a
recorded error, and each change of the block layer. -/
structure HostRelation (R : State → State → Prop) : Prop where
  refl : ∀ s, R s s
  trans : ∀ {s t u}, R s t → R t u → R s u
  send : ∀ s i, s.hostResetIn ≠ some 0 → R s (s.sendFrame (frameBytes s.cfg.opmap i))
  fail : ∀ s e, R s (s.fail e)
  pending : ∀ s v, R s (s.setPending v)
  burst : ∀ s v, R s (s.setBurstOn v)
  clip : ∀ s, R s s.countClip

namespace HostRelation

variable {R : State → State → Prop} (hR : HostRelation R)
include hR

theorem andThen {α β : Type} {s : State} {r : Run α} {k : α → State → Run β} (h : R s r.last)
    (hk : ∀ a t, R t (k a t).last) : R s (r.andThen k).last := by
  cases r with
  | ok a t => exact hR.trans h (hk a t)
  | err e t => exact h
  | cut t => exact h

theorem failRun {α : Type} (s : State) (e : Err) : R s (s.failRun e : Run α).last := hR.fail s e

theorem emit (s : State) (i : Instr) : R s (s.emit i).last := by
  by_cases h : s.hostResetIn = some 0
  · rw [State.emit_cut h]; exact hR.refl s
  · rw [State.emit_eq h]; exact hR.send s i h

theorem emitAll (is : List Instr) (s : State) : R s (State.emitAll is s).last := by
  induction is generalizing s with
  | nil => exact hR.refl s
  | cons i is ih => exact hR.andThen (hR.emit s i) fun _ t => ih t

theorem pollLoop (n : Nat) (s : State) : R s (State.pollLoop n s).last := by
  induction n generalizing s with
  | zero => exact hR.failRun s _
  | succ n ih =>
    refine hR.andThen (hR.emit s _) fun r t => ?_
    split
    · exact ih t
    · exact hR.pending t _

theorem pollIdle (s : State) : R s s.pollIdle.last := hR.pollLoop _ s

theorem drain (s : State) : R s s.drain.last := by
  unfold State.drain
  split
  · exact hR.pollIdle s
  · exact hR.refl s

theorem drainAndSend (s : State) (i : Instr) : R s (s.drainAndSend i).last :=
  hR.andThen (hR.drain s) fun _ t => hR.andThen (hR.emit t i) fun _ u => hR.refl u

theorem drainAndRead (s : State) (a : Nat) : R s (s.drainAndRead a).last :=
  hR.andThen (hR.drain s) fun _ t => hR.andThen (hR.emit t _) fun _ u => hR.refl u

theorem opBlit (s : State) (src dst w h stride : Nat) : R s (s.opBlit src dst w h stride).last := by
  unfold State.opBlit
  repeat' split
  all_goals first
    | exact hR.failRun _ _
    | exact hR.refl s
    | exact hR.andThen (hR.emit s _) fun _ t => hR.andThen (hR.emit t _) fun _ u =>
        hR.andThen (hR.pollIdle u) fun _ x => hR.andThen (hR.emit x _) fun _ y => hR.pending y _

theorem blitChunks (src dst w h stride : Nat) (is : List Nat) (s : State) :
    R s (State.blitChunks src dst w h stride is s).last := by
  induction is generalizing s with
  | nil => exact hR.refl s
  | cons i is ih => exact hR.andThen (hR.opBlit s _ _ _ _ _) fun _ t => ih t

end HostRelation

/-- The run of a host op, as far as its end state goes; a frame is no host op. -/
def State.hostRun (s : State) : Instr → Option (Run Nat)
  | .init => some (s.opInit.andThen fun _ t => .ok 0 t)
  | .protolineAddress n => some (s.opProtolineAddress n)
  | .pictureLineAddress n => some (s.opPictureLineAddress n)
  | .pixelAddress x y => some (s.opPixelAddress x y)
  | .writeIndexEntry line kind value => some ((s.opWriteIndexEntry line kind value).andThen fun _ t => .ok 0 t)
  | .fillProtoline n offset count value => some ((s.opFillProtoline n offset count value).andThen fun _ t => .ok 0 t)
  | .setColorBurst enable => some ((s.opSetColorBurst enable).andThen fun _ t => .ok 0 t)
  | .writePixel x y color => some ((s.opWritePixel x y color).andThen fun _ t => .ok 0 t)
  | .readPixel x y => some (s.opReadPixel x y)
  | .writeByte a d => some ((s.opWriteByte a d).andThen fun _ t => .ok 0 t)
  | .writeWord w v => some ((s.opWriteWord w v).andThen fun _ t => .ok 0 t)
  | .readByte a => some (s.opReadByte a)
  | .blit src dst w h stride => some ((s.opBlit src dst w h stride).andThen fun _ t => .ok 0 t)
  | .blitSplit src dst w h stride => some ((s.opBlitSplit src dst w h stride).andThen fun _ t => .ok 0 t)
  | .waitIdle => some (s.opWaitIdle.andThen fun _ t => .ok 0 t)
  | .readStatus => some (.ok 0 s)
  | .multiic _ | .wrsr _ | .write _ _ | .read _ _ | .picstart _ | .picend _ | .linelen _ | .vdctrl1 _
  | .indexstart _ | .vdctrl2 _ | .program _ | .bmc1 _ _ _ | .bmc2 _ _ _ | .bmstart | .bmstatus _ _ => none

/-- Every host op has a run. -/
theorem State.hostRun_isSome (s : State) {i : Instr} (h : i.isFrame = false) : (s.hostRun i).isSome := by
  cases i <;> first | rfl | simp [Instr.isFrame] at h

/-- The states of a host op, from its start on, are related by every relation its parts keep. -/
theorem HostRelation.hostRun {R : State → State → Prop} (hR : HostRelation R) {s : State} {i : Instr} {r : Run Nat}
    (h : s.hostRun i = some r) : R s r.last := by
  have ok : ∀ {q : Run Unit}, R s q.last → R s (q.andThen fun _ t => Run.ok 0 t).last :=
    fun hq => hR.andThen hq fun _ t => hR.refl t
  cases i <;> simp only [State.hostRun, Option.some.injEq, reduceCtorEq] at h <;> subst h
  case init =>
    refine ok ?_
    unfold State.opInit
    split
    · exact hR.failRun s _
    · exact hR.andThen (hR.drain s) fun _ t => hR.andThen (hR.emitAll _ t) fun _ u =>
        hR.trans (hR.burst u true) (hR.emitAll _ _)
  case protolineAddress n => unfold State.opProtolineAddress; repeat' split
                             all_goals first | exact hR.failRun s _ | exact hR.refl s
  case pictureLineAddress n => unfold State.opPictureLineAddress; repeat' split
                               all_goals first | exact hR.failRun s _ | exact hR.refl s
  case pixelAddress x y => unfold State.opPixelAddress; repeat' split
                           all_goals first | exact hR.failRun s _ | exact hR.refl s
  case writeIndexEntry line kind value =>
    refine ok ?_
    unfold State.opWriteIndexEntry; repeat' split
    all_goals first | exact hR.failRun s _ | exact hR.drainAndSend s _
  case fillProtoline n offset count value =>
    refine ok ?_
    unfold State.opFillProtoline; repeat' split
    all_goals first | exact hR.failRun s _ | exact hR.refl s | exact hR.drainAndSend s _
  case setColorBurst enable =>
    refine ok ?_
    unfold State.opSetColorBurst; repeat' split
    all_goals first | exact hR.failRun s _ | exact hR.andThen (hR.drainAndSend s _) fun _ t => hR.burst t _
  case writePixel x y color =>
    refine ok ?_
    unfold State.opWritePixel; repeat' split
    all_goals first | exact hR.failRun s _ | exact hR.clip s | exact hR.drainAndSend s _
  case readPixel x y => unfold State.opReadPixel; repeat' split
                        all_goals first | exact hR.failRun s _ | exact hR.drainAndRead s _
  case writeByte a d =>
    refine ok ?_
    unfold State.opWriteByte; repeat' split
    all_goals first | exact hR.failRun s _ | exact hR.drainAndSend s _
  case writeWord w v =>
    refine ok ?_
    unfold State.opWriteWord; repeat' split
    all_goals first | exact hR.failRun s _ | exact hR.drainAndSend s _
  case readByte a => unfold State.opReadByte; repeat' split
                     all_goals first | exact hR.failRun s _ | exact hR.drainAndRead s _
  case blit src dst w h stride => exact ok (hR.opBlit s _ _ _ _ _)
  case blitSplit src dst w h stride =>
    refine ok ?_
    unfold State.opBlitSplit; repeat' split
    all_goals first | exact hR.failRun s _ | exact hR.refl s | exact hR.blitChunks _ _ _ _ _ _ s
  case waitIdle =>
    refine ok ?_
    unfold State.opWaitIdle; repeat' split
    all_goals first | exact hR.failRun s _ | exact hR.pollIdle s
  case readStatus => exact hR.refl s

/-- How a host op ends (R133, R461, R501): with the state of its run, where its result stands and nothing else is
different; or, where a `HOST_RESET` cut it short, with that state reset. -/
theorem exec_host {i : Instr} (hi : i.isFrame = false) (s : State) :
    ∃ r, s.beginOp.hostRun i = some r ∧
      ((∃ q, exec i s = .next { r.last with result := some q } ∧ ∀ t, r ≠ .cut t) ∨
        ∃ t, r = .cut t ∧ exec i s = .next t.hostReset) := by
  have code : ∀ q : Run Unit,
      (∃ w, finishCode q = .next { (q.andThen fun _ t => (Run.ok 0 t : Run Nat)).last with result := some w } ∧
          ∀ t, (q.andThen fun _ t => (Run.ok 0 t : Run Nat)) ≠ .cut t) ∨
        ∃ t, (q.andThen fun _ t => (Run.ok 0 t : Run Nat)) = .cut t ∧ finishCode q = .next t.hostReset := by
    intro q
    cases q with
    | ok a t => exact .inl ⟨_, rfl, by simp⟩
    | err e t => exact .inl ⟨_, rfl, by simp⟩
    | cut t => exact .inr ⟨t, rfl, rfl⟩
  have value : ∀ q : Run Nat,
      (∃ w, finishValue q = .next { q.last with result := some w } ∧ ∀ t, q ≠ .cut t) ∨
        ∃ t, q = .cut t ∧ finishValue q = .next t.hostReset := by
    intro q
    cases q with
    | ok a t => exact .inl ⟨_, rfl, by simp⟩
    | err e t => exact .inl ⟨_, rfl, by simp⟩
    | cut t => exact .inr ⟨t, rfl, rfl⟩
  cases i <;> first
    | (simp [Instr.isFrame] at hi; done)
    | exact ⟨_, rfl, code _⟩
    | exact ⟨_, rfl, value _⟩
    | exact ⟨_, rfl, .inl ⟨_, rfl, by simp⟩⟩

end Sys2Proof.Machine
end

