-- ==== Sys2Proof/Laws/Host.lean ====
section
/-! SUPPORT. What the shared operations of the host ops do when nothing stops them: a frame sent, the bounded wait, the
drain, and a memory frame after the drain. -/

namespace Sys2Proof.Machine

/-! ## A frame of a known format -/

theorem State.portFrame_of_format {s : State} {c : Cmd} {payload : List Byte} {i : Instr}
    (hm : s.cfg.opmap.injective = true) (h : frameInstr c payload = some i) :
    s.portFrame (s.cfg.opmap.code c :: payload) = s.portInstr i := by
  unfold State.portFrame
  rw [decodeFrame_code hm, h]

/-- A frame that decodes to another command than `BMSTATUS` is no status frame. -/
theorem isStatusFrame_of_format {m : OpMap} {c : Cmd} {payload : List Byte} {i : Instr} (hm : m.injective = true)
    (h : frameInstr c payload = some i) (hi : ∀ f1 f2, i ≠ .bmstatus f1 f2) :
    isStatusFrame m (m.code c :: payload) = false := by
  unfold isStatusFrame
  rw [decodeFrame_code hm, h]
  cases i <;> first | rfl | exact absurd rfl (hi _ _)

/-- A frame of an opcode at a length R191 does not allow records `F_FRAME_LENGTH`, with the address its command gives it
(R468). -/
theorem State.portFrame_of_length {s : State} {c : Cmd} {payload : List Byte} (hm : s.cfg.opmap.injective = true)
    (h : frameInstr c payload = none) :
    s.portFrame (s.cfg.opmap.code c :: payload) =
      (s.raise .frameLength (s.cfg.opmap.code c) (s.faultAddress c payload)).respondDraws (payload.length + 1) := by
  unfold State.portFrame
  rw [decodeFrame_code hm, h]
  simp [State.rejectFrame, OpMap.command_code hm]

theorem isStatusFrame_statusBytes {m : OpMap} (hm : m.injective = true) :
    isStatusFrame m [m.bmstatus, 0, 0] = true := by
  have h : decodeFrame m [m.bmstatus, 0, 0] = .instr (.bmstatus 0 0) := decodeFrame_code hm .bmstatus [0, 0]
  unfold isStatusFrame
  rw [h]

/-- Sending the frame of an instruction is its transfer and then the port's step for that instruction (R161, R190). -/
theorem State.sendFrame_instr {s : State} {i : Instr} (hm : s.cfg.opmap.injective = true)
    (hi : Laws.EncodesItsFormat.Statement i) (hw : i.wellFormed = true) (hf : i.isFrame = true) :
    s.sendFrame (frameBytes s.cfg.opmap i) =
      { (s.transfer (frameBytes s.cfg.opmap i)).portInstr i with
        sent := s.sent ++ [frameBytes s.cfg.opmap i] } := by
  rcases hi hw with ⟨c, payload, hp, he⟩ | ⟨code, args, -, he⟩
  · have hb : frameBytes s.cfg.opmap i = s.cfg.opmap.code c :: payload := by simp [frameBytes, he]
    have ht := s.transfer_host (frameBytes s.cfg.opmap i)
    have hport : (s.transfer (frameBytes s.cfg.opmap i)).portFrame (frameBytes s.cfg.opmap i) =
        (s.transfer (frameBytes s.cfg.opmap i)).portInstr i := by
      have := State.portFrame_of_format (s := s.transfer (frameBytes s.cfg.opmap i)) (by rw [ht.1]; exact hm) hp
      rw [ht.1] at this
      rw [hb] at this ⊢
      exact this
    have hsent : ((s.transfer (frameBytes s.cfg.opmap i)).portInstr i).sent = s.sent :=
      (State.portInstr_sameHost _ _).2.2.1.trans ht.2.2.1
    simp only [State.sendFrame, hport, hsent]
  · have := he s.cfg.opmap
    cases i <;> first | (simp [Instr.isFrame] at hf; done) | simp [encode] at this

/-! ## The bounded wait -/

/-- The chip between two frames, once the running move has completed. -/
def State.idleChip (s : State) : Chip :=
  { (if s.chip.busy then s.complete.chip else s.chip) with select := false }

@[simp] theorem State.idleChip_mem (s : State) : s.idleChip.mem = s.settledMem := by
  unfold State.idleChip State.settledMem
  split <;> rfl

@[simp] theorem State.idleChip_busy (s : State) : s.idleChip.busy = false := by
  unfold State.idleChip
  split
  · rfl
  · rename_i h; simpa using h

theorem State.idleChip_registers (s : State) : s.idleChip.registers = s.chip.registers := by
  unfold State.idleChip
  split <;> rfl

/-- The bytes of the frame a poll sends (R427). -/
def statusBytes (m : OpMap) : List Byte := [m.bmstatus, 0, 0]

theorem busyOf_status (busy : Bool) (r0 d r2 : Byte) : busyOf [r0, statusHigh busy d, r2] = busy := by
  simp [busyOf, statusHigh]
  rw [BitVec.getElem_append]
  simp

/-- What one poll answers and leaves (R427, R214): the engine has had its chance, the answer is whether a move still
runs, and the model has counted an answer that one does. -/
theorem State.send_status {s : State} (hm : s.cfg.opmap.injective = true) :
    busyOf (s.sendFrame (frameBytes s.cfg.opmap statusFrame)).response =
      (s.sendFrame (frameBytes s.cfg.opmap statusFrame)).chip.busy ∧
    (s.sendFrame (frameBytes s.cfg.opmap statusFrame)).faults = s.faults ∧
    (s.sendFrame (frameBytes s.cfg.opmap statusFrame)).chip = (s.transfer (statusBytes s.cfg.opmap)).chip ∧
    (s.sendFrame (frameBytes s.cfg.opmap statusFrame)).delay = (s.transfer (statusBytes s.cfg.opmap)).delay ∧
    (s.sendFrame (frameBytes s.cfg.opmap statusFrame)).busyPolls =
      if (s.transfer (statusBytes s.cfg.opmap)).chip.busy then (s.transfer (statusBytes s.cfg.opmap)).busyPolls + 1
      else (s.transfer (statusBytes s.cfg.opmap)).busyPolls := by
  rw [State.sendFrame_instr (i := statusFrame) hm (Laws.EncodesItsFormat.bmstatus 0 0) rfl rfl]
  exact ⟨busyOf_status _ _ _ _, (s.transfer_host _).2.2.2.2.2.1, rfl, rfl, rfl⟩

/-- One transfer while a move runs: it has completed, or it runs on with one frame of delay less. -/
theorem State.transfer_running {s : State} (h : s.chip.busy = true) (bytes : List Byte) :
    ((s.transfer bytes).chip = s.idleChip) ∨
    (s.delay ≠ 0 ∧ ¬(isStatusFrame s.cfg.opmap bytes = true ∧ s.pollBoundReached = true) ∧
      (s.transfer bytes).chip = { s.chip with select := false } ∧ (s.transfer bytes).delay = s.delay - 1 ∧
      (s.transfer bytes).busyPolls = s.busyPolls) := by
  unfold State.transfer
  rcases State.engineGap_cases s (isStatusFrame s.cfg.opmap bytes) with ⟨hb, -⟩ | ⟨-, -, h'⟩ | ⟨-, hd, hs, h'⟩
  · simp [h] at hb
  · rw [h']; left; simp [State.idleChip, h]
  · rw [h']; right; exact ⟨hd, hs, rfl, rfl, rfl⟩

/-- One poll while a move runs: it has completed, or it runs on and one poll fewer can see it (R410). -/
theorem State.poll_running {s : State} (hm : s.cfg.opmap.injective = true) (h : s.chip.busy = true) :
    ((s.sendFrame (frameBytes s.cfg.opmap statusFrame)).chip = s.idleChip) ∨
    (s.pollsLeft ≠ 0 ∧ (s.sendFrame (frameBytes s.cfg.opmap statusFrame)).chip = { s.chip with select := false } ∧
      (s.sendFrame (frameBytes s.cfg.opmap statusFrame)).pollsLeft = s.pollsLeft - 1) := by
  obtain ⟨-, -, hc, hd, hp⟩ := State.send_status (s := s) hm
  have hcfg := (s.sendFrame_host (frameBytes s.cfg.opmap statusFrame)).1
  rcases State.transfer_running h (statusBytes s.cfg.opmap) with h1 | ⟨h1, h2, h3, h4, h5⟩
  · exact .inl (hc.trans h1)
  · right
    rw [h3] at hc hp
    simp only [h, if_true] at hp
    rw [h4] at hd
    rw [h5] at hp
    have hst : isStatusFrame s.cfg.opmap (statusBytes s.cfg.opmap) = true := isStatusFrame_statusBytes hm
    simp only [hst, true_and, Bool.not_eq_true, State.pollBoundReached] at h2
    refine ⟨?_, hc, ?_⟩
    · unfold State.pollsLeft
      split <;> rename_i hk <;> simp only [hk] at h2 <;> simp at h2 ⊢ <;> omega
    · unfold State.pollsLeft
      rw [hcfg, hd, hp]
      split <;> omega

/-- One poll with no move running changes nothing but `SELECT`, which is 0. -/
theorem State.poll_idle {s : State} (hm : s.cfg.opmap.injective = true) (h : s.chip.busy = false) :
    (s.sendFrame (frameBytes s.cfg.opmap statusFrame)).chip = s.idleChip := by
  rw [(State.send_status (s := s) hm).2.2.1, State.transfer_idle h]
  simp [State.idleChip, h]

/-- A wait whose polls suffice (R427, R410): it ends with no move running or pending, the running move's bytes in the
SRAM, nothing else of the machine changed, and only status frames sent. -/
theorem State.pollLoop_ok {n : Nat} {s : State} (hm : s.cfg.opmap.injective = true) (hr : s.hostResetIn = none)
    (hn : 1 ≤ n) (hd : s.chip.busy = true → s.pollsLeft < n) :
    ∃ t k, State.pollLoop n s = .ok () t ∧ t.cfg = s.cfg ∧ t.chip = s.idleChip ∧
      t.block = { s.block with movePending := false } ∧ t.faults = s.faults ∧ t.hostResetIn = none ∧
      t.result = s.result ∧ t.sent = s.sent ++ List.replicate (k + 1) (statusBytes s.cfg.opmap) := by
  induction n generalizing s with
  | zero => omega
  | succ n ih =>
    obtain ⟨hbusy, hf, -⟩ := State.send_status (s := s) hm
    obtain ⟨h1, h2, h3, h4, -, h6⟩ := s.sendFrame_host (frameBytes s.cfg.opmap statusFrame)
    have he := State.emit_eq (s := s) (by rw [hr]; simp) statusFrame
    have hb : frameBytes s.cfg.opmap statusFrame = statusBytes s.cfg.opmap := rfl
    rw [hr, Option.map_none] at h6
    have last : (s.sendFrame (frameBytes s.cfg.opmap statusFrame)).chip = s.idleChip →
        ∃ t k, State.pollLoop (n + 1) s = .ok () t ∧ t.cfg = s.cfg ∧ t.chip = s.idleChip ∧
          t.block = { s.block with movePending := false } ∧ t.faults = s.faults ∧ t.hostResetIn = none ∧
          t.result = s.result ∧ t.sent = s.sent ++ List.replicate (k + 1) (statusBytes s.cfg.opmap) := by
      intro hc
      refine ⟨(s.sendFrame (frameBytes s.cfg.opmap statusFrame)).setPending false, 0, ?_, h1, hc, ?_, hf, h6, h4, h3⟩
      · rw [State.pollLoop, he, Run.andThen_ok, hbusy, hc, State.idleChip_busy]; simp
      · simp [State.setPending, h2]
    cases hbz : s.chip.busy
    · exact last (State.poll_idle hm hbz)
    · rcases State.poll_running hm hbz with hidle | ⟨hd0, hc, hdl⟩
      · exact last hidle
      · have := hd hbz
        obtain ⟨t, k, e, g1, g2, g3, g4, g5, g6, g7⟩ :=
          ih (s := s.sendFrame (frameBytes s.cfg.opmap statusFrame)) (by rw [h1]; exact hm) h6 (by omega)
            (fun _ => by rw [hdl]; omega)
        refine ⟨t, k + 1, ?_, g1.trans h1, ?_, ?_, g4.trans hf, g5, g6.trans h4, ?_⟩
        · rw [State.pollLoop, he, Run.andThen_ok, hbusy, hc]
          simp only [hbz, if_true]
          exact e
        · rw [g2]
          unfold State.idleChip State.complete
          rw [hc]
          simp [hbz]
        · rw [g3, h2]
        · rw [g7, h3, h1, hb, List.append_assoc, List.replicate_succ (n := k + 1)]; rfl

/-- A wait that the engine outlasts (R427): every poll is sent and sees `BUSY = 1`, `E_TIMEOUT` is recorded, and the
move still runs. -/
theorem State.pollLoop_timeout {n : Nat} {s : State} (hm : s.cfg.opmap.injective = true) (hr : s.hostResetIn = none)
    (hb : s.chip.busy = true) (hd : n ≤ s.pollsLeft) :
    ∃ t : State, State.pollLoop n s = .err .timeout (t.fail .timeout) ∧ t.cfg = s.cfg ∧
      (t.chip = s.chip ∨ t.chip = { s.chip with select := false }) ∧ t.block = s.block ∧ t.faults = s.faults ∧
      t.hostResetIn = none ∧ t.result = s.result ∧
      t.sent = s.sent ++ List.replicate n (statusBytes s.cfg.opmap) := by
  induction n generalizing s with
  | zero => exact ⟨s, rfl, rfl, .inl rfl, rfl, rfl, hr, rfl, by simp⟩
  | succ n ih =>
    obtain ⟨hbusy, hf, -, hdel, hpol⟩ := State.send_status (s := s) hm
    obtain ⟨h1, h2, h3, h4, -, h6⟩ := s.sendFrame_host (frameBytes s.cfg.opmap statusFrame)
    have he := State.emit_eq (s := s) (by rw [hr]; simp) statusFrame
    rw [hr, Option.map_none] at h6
    have hrun : (s.sendFrame (frameBytes s.cfg.opmap statusFrame)).chip = { s.chip with select := false } ∧
        (s.sendFrame (frameBytes s.cfg.opmap statusFrame)).pollsLeft = s.pollsLeft - 1 := by
      rcases State.poll_running hm hb with h | ⟨-, h⟩
      · exfalso
        have hc := (State.send_status (s := s) hm).2.2.1
        rw [h] at hc
        have hdelay : s.delay ≠ 0 := by
          intro h0
          have hp : s.pollsLeft = 0 := by unfold State.pollsLeft; split <;> omega
          omega
        have hreach : s.pollBoundReached = false := by
          have hlt : 1 ≤ s.pollsLeft := by omega
          unfold State.pollsLeft at hlt
          unfold State.pollBoundReached
          split at hlt <;> rename_i hk <;> rw [hk]
          simp; omega
        have := congrArg Chip.busy hc
        rw [State.idleChip_busy] at this
        unfold State.transfer at this
        rcases State.engineGap_cases s (isStatusFrame s.cfg.opmap (statusBytes s.cfg.opmap)) with
          ⟨h', -⟩ | ⟨-, h', -⟩ | ⟨-, -, -, h'⟩
        · simp [hb] at h'
        · rcases h' with h' | ⟨-, h'⟩
          · exact hdelay h'
          · simp [hreach] at h'
        · rw [h'] at this; simp [hb] at this
      · exact h
    obtain ⟨t, e, g1, g2, g3, g4, g5, g6, g7⟩ :=
      ih (s := s.sendFrame (frameBytes s.cfg.opmap statusFrame)) (by rw [h1]; exact hm) h6
        (by rw [hrun.1]; exact hb) (by rw [hrun.2]; omega)
    refine ⟨t, ?_, g1.trans h1, ?_, g3.trans h2, g4.trans hf, g5, g6.trans h4, ?_⟩
    · rw [State.pollLoop, he, Run.andThen_ok, hbusy, hrun.1]
      simp only [hb, if_true]
      exact e
    · right
      rcases g2 with g2 | g2 <;> rw [g2, hrun.1]
    · rw [g7, h3, h1, List.append_assoc, List.replicate_succ]; rfl

/-- No transfer changes what the chip is once the running move has completed (R413). -/
theorem State.transfer_idleChip (s : State) (bytes : List Byte) : (s.transfer bytes).idleChip = s.idleChip := by
  unfold State.transfer
  rcases State.engineGap_cases s (isStatusFrame s.cfg.opmap bytes) with ⟨hb, h⟩ | ⟨hb, -, h⟩ | ⟨hb, -, -, h⟩ <;> rw [h] <;>
    simp [State.idleChip, hb, State.complete]

/-- A wait that would end still ends after one more transfer. -/
theorem State.transfer_waitEnds {s : State} (bytes : List Byte) (h : s.waitEnds) : (s.transfer bytes).waitEnds := by
  intro hb
  have hb' := State.transfer_busy hb
  have h0 := h hb'
  rcases State.transfer_running hb' bytes with h1 | ⟨h1, -, -, h3, h4⟩
  · rw [h1] at hb; simp at hb
  · have hc := (s.transfer_host bytes).1
    unfold State.pollLimit State.pollsLeft at *
    rw [hc, h3, h4]
    split at h0 <;> split at h0 <;> simp_all <;> omega

/-- Where the polls of every wait suffice, every wait ends (R410, R427). -/
theorem State.waitEnds_of_pollsSuffice {s : State} (h : s.cfg.pollsSuffice) : s.waitEnds := by
  intro _
  unfold Cfg.pollsSuffice at h
  unfold State.pollsLeft State.pollLimit
  cases h1 : s.cfg.busyPollLimit <;> cases h2 : s.cfg.enginePollBound <;> simp_all
  omega

/-- The polls of a wait are at least one with a valid limit (R266 condition 13, R427). -/
theorem State.pollLimit_pos {s : State} (h : s.cfg.busyPollLimit ≠ some 0) : 1 ≤ s.pollLimit := by
  unfold State.pollLimit
  split
  · rename_i n hn
    rw [hn] at h
    simp only [ne_eq, Option.some.injEq] at h
    omega
  · omega

/-- A drain that succeeds (R428): nothing is pending, no move runs, and the chip is as the running move leaves it. -/
theorem State.drain_ok {s : State} (hm : s.cfg.opmap.injective = true) (hl : s.cfg.busyPollLimit ≠ some 0)
    (hr : s.hostResetIn = none) (hd : s.drains) :
    ∃ t k, s.drain = .ok () t ∧ t.cfg = s.cfg ∧ { t.chip with select := false } = s.idleChip ∧
      t.block = { s.block with movePending := false } ∧ t.faults = s.faults ∧ t.hostResetIn = none ∧
      t.result = s.result ∧ t.sent = s.sent ++ List.replicate k (statusBytes s.cfg.opmap) := by
  unfold State.drain
  rcases hd with ⟨hp, hb⟩ | ⟨hp, hw⟩
  · exact ⟨s, 0, by simp [hp], rfl, by simp [State.idleChip, hb], by cases hbk : s.block; simp_all, rfl, hr, rfl,
      by simp⟩
  · obtain ⟨t, k, e, h1, h2, h3, h4, h5, h6, h7⟩ :=
      State.pollLoop_ok (n := s.pollLimit) hm hr (State.pollLimit_pos hl) hw
    exact ⟨t, k + 1, by simp only [hp, if_true]; exact e, h1, by rw [h2]; rfl, h3, h4, h5, h6, h7⟩

/-- A drain that times out (R427, R428): as `State.pollLoop_timeout`. -/
theorem State.drain_timeout {n : Nat} {s : State} (hm : s.cfg.opmap.injective = true)
    (hl : s.cfg.busyPollLimit = some n) (hr : s.hostResetIn = none) (hp : s.block.movePending = true)
    (hb : s.chip.busy = true) (hd : n ≤ s.pollsLeft) :
    ∃ t : State, s.drain = .err .timeout (t.fail .timeout) ∧ t.cfg = s.cfg ∧
      (t.chip = s.chip ∨ t.chip = { s.chip with select := false }) ∧ t.block = s.block ∧ t.faults = s.faults ∧
      t.hostResetIn = none ∧ t.result = s.result ∧
      t.sent = s.sent ++ List.replicate n (statusBytes s.cfg.opmap) := by
  have e : s.drain = State.pollLoop n s := by simp [State.drain, hp, State.pollIdle, State.pollLimit, hl]
  rw [e]
  exact State.pollLoop_timeout hm hr hb hd

/-! ## A memory frame after the drain -/

/-- The chip after a drain is set for memory frames where it was before. -/
theorem State.memoryModeSet_of_idleChip {s t : State} (hmode : s.memoryModeSet) (hc : t.cfg = s.cfg)
    (h : { t.chip with select := false } = s.idleChip) : t.memoryModeSet := by
  have e1 : t.chip.mode = s.chip.mode := by
    have := congrArg Chip.mode h; simpa [State.idleChip, apply_ite, State.complete] using this
  have e2 : t.chip.multiic = s.chip.multiic := by
    have := congrArg Chip.multiic h; simpa [State.idleChip, apply_ite, State.complete] using this
  exact ⟨e1.trans hmode.1, by simpa [e2, hc] using hmode.2⟩

/-- A `WRITE` frame of bytes that fit, sent after a drain that succeeds, on a chip set for memory frames (R205, R428):
the bytes are stored in the SRAM as the drained move left it, and nothing else changes. -/
theorem State.drainAndSend_write {s : State} {a : BitVec 24} {data : List Byte} (hm : s.cfg.opmap.injective = true)
    (hl : s.cfg.busyPollLimit ≠ some 0) (hr : s.hostResetIn = none) (hd : s.drains) (hmode : s.memoryModeSet)
    (hne : data ≠ []) (hfit : a.toNat + data.length ≤ 131072) :
    ∃ t k, s.drainAndSend (.write a data) = .ok () t ∧ t.cfg = s.cfg ∧
      t.chip = { s.idleChip with mem := Memory.write s.settledMem a.toNat data } ∧
      t.block = { s.block with movePending := false } ∧ t.faults = s.faults ∧ t.hostResetIn = none ∧
      t.result = s.result ∧
      t.sent = s.sent ++ List.replicate k (statusBytes s.cfg.opmap) ++ [s.cfg.opmap.write :: (addr24 a ++ data)] := by
  obtain ⟨t, k, e, h1, h2, h3, h4, h5, h6, h7⟩ := State.drain_ok hm hl hr hd
  have he := State.emit_eq (s := t) (by rw [h5]; simp) (.write a data)
  have hw : (Instr.write a data).wellFormed = true := by cases data <;> simp_all [Instr.wellFormed]
  have hbz : t.chip.busy = false := by have := congrArg Chip.busy h2; simpa using this
  have hs := State.sendFrame_instr (s := t) (by rw [h1]; exact hm) (Laws.EncodesItsFormat.write a data) hw rfl
  have hk : 1 ≤ data.length := by cases data <;> simp_all
  have hmode' : (t.transfer (frameBytes t.cfg.opmap (.write a data))).memoryModeSet := by
    rw [State.transfer_idle hbz]
    exact State.memoryModeSet_of_idleChip (t := t) hmode h1 h2
  have hnone := (State.memoryFault_eq_none (t.transfer (frameBytes t.cfg.opmap (.write a data))) a hk).mpr
    ⟨hmode', by rw [State.transfer_idle hbz]; exact hbz, hfit⟩
  have hemp : data.isEmpty = false := by cases data <;> simp_all
  have hmem : t.chip.mem = s.settledMem := by have := congrArg Chip.mem h2; simpa using this
  refine ⟨t.sendFrame (frameBytes t.cfg.opmap (.write a data)), k, ?_, ?_, ?_, ?_, ?_, ?_, ?_, ?_⟩
  · rw [State.drainAndSend, e, Run.andThen_ok, he]; rfl
  · exact (t.sendFrame_host _).1.trans h1
  · rw [hs]
    simp only [State.portInstr, State.portWrite, hemp, hnone]
    rw [State.transfer_idle hbz]
    simp only [← h2, ← hmem]
    rfl
  · exact (t.sendFrame_host _).2.1.trans h3
  · rw [hs]
    simp only [State.portInstr, State.portWrite, hemp, hnone]
    exact (t.transfer_host _).2.2.2.2.2.1.trans h4
  · rw [(t.sendFrame_host _).2.2.2.2.2, h5]; rfl
  · exact (t.sendFrame_host _).2.2.2.1.trans h6
  · rw [(t.sendFrame_host _).2.2.1, h7, h1]; rfl

/-- A `READ` frame of one written byte answers it and changes nothing (R206). -/
theorem State.portRead_one {s : State} {a : BitVec 24} {x b : Byte} (h : s.memoryFault a 1 = none)
    (hb : Memory.read s.chip.mem a.toNat = some b) : s.portRead a [x] = s.respond (s.drawBytes 4 ++ [b]) := by
  have hu : Memory.firstUnwritten s.chip.mem a.toNat 1 = none := by simp [Memory.firstUnwritten, hb]
  have hr : s.readResponse a.toNat 1 = s.drawBytes 4 ++ [b] := by simp [State.readResponse, List.range_succ, hb]
  simp only [State.portRead, List.isEmpty_cons, List.length_singleton, h, hu, hr]
  rfl

/-- A one-byte `READ` frame sent after a drain that succeeds, on a chip set for memory frames (R166, R206): it answers
the byte of the SRAM as the drained move left it, and changes nothing. -/
theorem State.drainAndRead_ok {s : State} {a : Nat} {b : Byte} (hm : s.cfg.opmap.injective = true)
    (hl : s.cfg.busyPollLimit ≠ some 0) (hr : s.hostResetIn = none) (hd : s.drains) (hmode : s.memoryModeSet)
    (ha : a < 131072) (hb : Memory.read s.settledMem a = some b) :
    ∃ t k, s.drainAndRead a = .ok b.toNat t ∧ t.cfg = s.cfg ∧ t.chip = s.idleChip ∧
      t.block = { s.block with movePending := false } ∧ t.faults = s.faults ∧ t.hostResetIn = none ∧
      t.result = s.result ∧
      t.sent = s.sent ++ List.replicate k (statusBytes s.cfg.opmap) ++
        [s.cfg.opmap.read :: (addr24 (BitVec.ofNat 24 a) ++ [0])] := by
  obtain ⟨t, k, e, h1, h2, h3, h4, h5, h6, h7⟩ := State.drain_ok hm hl hr hd
  have he := State.emit_eq (s := t) (by rw [h5]; simp) (readByteFrame a)
  have hbz : t.chip.busy = false := by have := congrArg Chip.busy h2; simpa using this
  have hs := State.sendFrame_instr (s := t) (i := readByteFrame a) (by rw [h1]; exact hm)
    (Laws.EncodesItsFormat.read _ _) rfl rfl
  have hmode' : (t.transfer (frameBytes t.cfg.opmap (readByteFrame a))).memoryModeSet := by
    rw [State.transfer_idle hbz]
    exact State.memoryModeSet_of_idleChip (t := t) hmode h1 h2
  have hnat : (BitVec.ofNat 24 a).toNat = a := by simp; omega
  have hnone := (State.memoryFault_eq_none (t.transfer (frameBytes t.cfg.opmap (readByteFrame a)))
    (BitVec.ofNat 24 a) (k := 1) (by omega)).mpr
    ⟨hmode', by rw [State.transfer_idle hbz]; exact hbz, by rw [hnat]; omega⟩
  have hmem : t.chip.mem = s.settledMem := by have := congrArg Chip.mem h2; simpa using this
  have hread : Memory.read (t.transfer (frameBytes t.cfg.opmap (readByteFrame a))).chip.mem a = some b := by
    rw [State.transfer_idle hbz]; simpa [hmem] using hb
  have hport : (t.transfer (frameBytes t.cfg.opmap (readByteFrame a))).portInstr (readByteFrame a) =
      (t.transfer (frameBytes t.cfg.opmap (readByteFrame a))).respond
        ((t.transfer (frameBytes t.cfg.opmap (readByteFrame a))).drawBytes 4 ++ [b]) :=
    State.portRead_one hnone (by rw [hnat]; exact hread)
  refine ⟨t.sendFrame (frameBytes t.cfg.opmap (readByteFrame a)), k, ?_, ?_, ?_, ?_, ?_, ?_, ?_, ?_⟩
  · rw [State.drainAndRead, e, Run.andThen_ok, he, Run.andThen_ok, hs, hport]
    simp [State.respond, State.drawBytes, List.range_succ]
  · exact (t.sendFrame_host _).1.trans h1
  · rw [hs, hport, State.transfer_idle hbz]
    exact h2
  · exact (t.sendFrame_host _).2.1.trans h3
  · rw [hs, hport]
    exact (t.transfer_host _).2.2.2.2.2.1.trans h4
  · rw [(t.sendFrame_host _).2.2.2.2.2, h5]; rfl
  · exact (t.sendFrame_host _).2.2.2.1.trans h6
  · rw [(t.sendFrame_host _).2.2.1, h7, h1]; rfl

end Sys2Proof.Machine
end

