-- ==== Sys2Proof/Laws/Blit.lean ====
section
/-! SUPPORT. What `BLIT` does once its checks pass, and the chunk arithmetic of `BLIT_SPLIT`. -/

namespace Sys2Proof.Machine

/-- `OVERLAP1` depends on the difference of the two addresses alone (R213). -/
theorem overlap1_shift (s d h stride x : Nat) : overlap1 (s + x) (d + x) h stride = overlap1 s d h stride := by
  unfold overlap1 apart1
  congr 1
  funext k
  rw [Bool.eq_iff_iff]
  simp only [Bool.or_eq_true, beq_iff_eq]
  omega

/-- A `BMC1` frame of a host op, its reserved bits 0 (R211): the chip is what it would be, with `BMC1` written, once the
running move has completed. -/
theorem State.send_bmc1 {s : State} (hm : s.cfg.opmap.injective = true) (sw dw : Half) (f : Byte)
    (hf : reservedOfBmc1 f = false) :
    let t := s.sendFrame (frameBytes s.cfg.opmap (.bmc1 sw dw f))
    t.idleChip =
      { s.idleChip with bmc1 := some ⟨sw, dw, f.getLsbD 0, f.getLsbD 1, f.getLsbD 2, f.getLsbD 4⟩ } ∧
    t.cfg = s.cfg ∧ t.block = s.block ∧ t.faults = s.faults ∧ t.hostResetIn = s.hostResetIn.map (· - 1) ∧
    (s.waitEnds → t.waitEnds) := by
  intro t
  have hs := State.sendFrame_instr (i := .bmc1 sw dw f) hm (Laws.EncodesItsFormat.bmc1 _ _ _) rfl rfl
  have hh := s.sendFrame_host (frameBytes s.cfg.opmap (.bmc1 sw dw f))
  have e : t = _ := hs
  have hp : ∀ u : State, u.portInstr (.bmc1 sw dw f) = (u.setChip { u.chip with
      bmc1 := some ⟨sw, dw, f.getLsbD 0, f.getLsbD 1, f.getLsbD 2, f.getLsbD 4⟩ }).respondDraws 6 := by
    intro u; simp only [State.portInstr, State.portBmc1, State.registerFrame, reservedFault, hf]; rfl
  rw [hp] at e
  have ti := State.transfer_idleChip s (frameBytes s.cfg.opmap (.bmc1 sw dw f))
  refine ⟨?_, hh.1, hh.2.1, ?_, hh.2.2.2.2.2, ?_⟩
  · rw [← ti, e]; generalize s.transfer _ = u
    unfold State.idleChip State.complete
    cases hb : u.chip.busy <;> simp [hb]
  · rw [e]; exact (s.transfer_host _).2.2.2.2.2.1
  · intro hw; have := State.transfer_waitEnds (frameBytes s.cfg.opmap (.bmc1 sw dw f)) hw
    rw [e]; exact this

/-- As `State.send_bmc1`, for `BMC2` (R212). -/
theorem State.send_bmc2 {s : State} (hm : s.cfg.opmap.injective = true) (st : Half) (w h : Byte) :
    let t := s.sendFrame (frameBytes s.cfg.opmap (.bmc2 st w h))
    t.idleChip = { s.idleChip with bmc2 := some ⟨st, w, h⟩ } ∧ t.cfg = s.cfg ∧ t.block = s.block ∧
    t.faults = s.faults ∧ t.hostResetIn = s.hostResetIn.map (· - 1) ∧ (s.waitEnds → t.waitEnds) := by
  intro t
  have hs := State.sendFrame_instr (i := .bmc2 st w h) hm (Laws.EncodesItsFormat.bmc2 _ _ _) rfl rfl
  have hh := s.sendFrame_host (frameBytes s.cfg.opmap (.bmc2 st w h))
  have e : t = _ := hs
  have hp : ∀ u : State,
      u.portInstr (.bmc2 st w h) = (u.setChip { u.chip with bmc2 := some ⟨st, w, h⟩ }).respondDraws 5 := fun _ => rfl
  rw [hp] at e
  have ti := State.transfer_idleChip s (frameBytes s.cfg.opmap (.bmc2 st w h))
  refine ⟨?_, hh.1, hh.2.1, ?_, hh.2.2.2.2.2, ?_⟩
  · rw [← ti, e]; generalize s.transfer _ = u
    unfold State.idleChip State.complete
    cases hb : u.chip.busy <;> simp [hb]
  · rw [e]; exact (s.transfer_host _).2.2.2.2.2.1
  · intro hw; have := State.transfer_waitEnds (frameBytes s.cfg.opmap (.bmc2 st w h)) hw
    rw [e]; exact this

/-- The flag byte of a `BLIT` (R420): no reserved bit, the direction, the two parities and the filter flag. -/
theorem blitFlags_bits (c : Cfg) (hl : c.lpfEnable ≤ 1) (dir : Bool) (s d : Nat) :
    reservedOfBmc1 (blitFlags c dir s d) = false ∧ (blitFlags c dir s d).getLsbD 0 = dir ∧
    (blitFlags c dir s d).getLsbD 1 = decide (d % 2 = 1) ∧ (blitFlags c dir s d).getLsbD 2 = decide (s % 2 = 1) ∧
    (blitFlags c dir s d).getLsbD 4 = decide (c.lpfEnable = 1) := by
  unfold blitFlags
  have : c.lpfEnable = 0 ∨ c.lpfEnable = 1 := by omega
  have h1 : d % 2 = 0 ∨ d % 2 = 1 := by omega
  have h2 : s % 2 = 0 ∨ s % 2 = 1 := by omega
  rcases this with h | h <;> rcases h1 with h1 | h1 <;> rcases h2 with h2 | h2 <;> cases dir <;> rw [h, h1, h2] <;>
    decide

/-- A `BLIT` whose checks pass and whose wait ends (R420, R424): the drained chip with the move latched and running, and
the move is the rectangle's, from its first byte or, descending, from its last (R422, R423). -/
theorem State.opBlit_ok (s : State) (src dst w h stride : Nat) (hv : s.cfg.valid = true) (hwt : s.waitEnds)
    (hr : s.hostResetIn = none)
    (h0 : 0 < h) (h256 : h ≤ 256) (hst : stride ≤ 65535) (hrow : h = 1 ∨ w ≤ stride)
    (hsrc : src + (h - 1) * stride + w ≤ 131072) (hdst : dst + (h - 1) * stride + w ≤ 131072)
    (hmin : s.cfg.bmMinWidth ≤ w) (hmax : w ≤ s.cfg.bmMaxWidth) (hov : overlap1 src dst h stride = false) :
    ∃ t v, s.opBlit src dst w h stride = .ok () t ∧
      t.block = { s.block with movePending := true } ∧ t.faults = s.faults ∧ t.cfg = s.cfg ∧ t.hostResetIn = none ∧
      t.chip = { s.idleChip with bmc1 := t.chip.bmc1, bmc2 := t.chip.bmc2, active := some v, busy := true } ∧
      t.chip.bmc1.map Bmc1.lpf = some (decide (s.cfg.lpfEnable = 1)) ∧
      v.fits ∧ v.width.toNat = w ∧ v.height.toNat = h ∧ v.stride.toNat = stride ∧ v.dir = decide (src < dst) ∧
      v.src.toNat = (if src < dst then src + ((h - 1) * stride + (w - 1)) else src) ∧
      v.dst.toNat = (if src < dst then dst + ((h - 1) * stride + (w - 1)) else dst) := by
  have hm := Cfg.valid_injective hv
  have hlim := Cfg.valid_moveLimits hv
  have hlev := Cfg.valid_levels hv
  have e0 : s.opBlit src dst w h stride = s.blitFrames src dst w h stride := by
    unfold State.opBlit
    rw [if_neg (by simp [hv]), if_neg (by omega), if_neg (by simp [blitOutOfRange]; omega), if_neg (by omega),
      if_neg (by omega),
      if_neg (by simp [hov])]
  rw [e0]
  unfold State.blitFrames
  set dir := blitDescends src dst with hdir
  set sa := blitAddress dir src w h stride with hsa
  set da := blitAddress dir dst w h stride with hda
  obtain ⟨f0, f1, f2, f3, f4⟩ := blitFlags_bits s.cfg hlev.2.2.2.2.2.2 dir sa da
  set sw := BitVec.ofNat 16 (sa / 2) with hsw
  set dw := BitVec.ofNat 16 (da / 2) with hdw
  have eb1 : blitFrame1 s.cfg src dst w h stride = .bmc1 sw dw (blitFlags s.cfg dir sa da) := rfl
  rw [eb1, State.emit_eq (by rw [hr]; simp), Run.andThen_ok]
  obtain ⟨a1, a2, a3, a4, a5, a6⟩ := State.send_bmc1 hm sw dw (blitFlags s.cfg dir sa da) f0
  set t1 := s.sendFrame (frameBytes s.cfg.opmap (.bmc1 sw dw (blitFlags s.cfg dir sa da)))
  rw [hr, Option.map_none] at a5
  have eb2 : blitFrame2 w h stride = .bmc2 (BitVec.ofNat 16 stride) (BitVec.ofNat 8 w) (BitVec.ofNat 8 (h-1)) := rfl
  rw [eb2, State.emit_eq (by rw [a5]; simp), Run.andThen_ok]
  obtain ⟨b1, b2, b3, b4, b5, b6⟩ := State.send_bmc2 (s := t1) (by rw [a2]; exact hm) (BitVec.ofNat 16 stride)
    (BitVec.ofNat 8 w) (BitVec.ofNat 8 (h - 1))
  set t2 := t1.sendFrame (frameBytes t1.cfg.opmap
    (.bmc2 (BitVec.ofNat 16 stride) (BitVec.ofNat 8 w) (BitVec.ofNat 8 (h - 1))))
  rw [a5, Option.map_none] at b5
  have c2 : t2.cfg = s.cfg := b2.trans a2
  obtain ⟨x, k, ex, x1, x2, x3, x4, x5, x6, x7⟩ := State.pollLoop_ok (s := t2) (n := t2.pollLimit)
    (by rw [c2]; exact hm) b5 (State.pollLimit_pos (by rw [c2]; exact hlim.2.2.2)) (b6 (a6 hwt))
  rw [State.pollIdle, ex, Run.andThen_ok, State.emit_eq (by rw [x5]; simp), Run.andThen_ok]
  have hxb : x.chip.busy = false := by rw [x2]; exact State.idleChip_busy _
  have hs := State.sendFrame_instr (s := x) (i := .bmstart) (by rw [x1, c2]; exact hm)
    Laws.EncodesItsFormat.bmstart rfl rfl
  have hT := State.transfer_idle hxb (frameBytes x.cfg.opmap .bmstart)
  set p : Bmc1 := ⟨sw, dw, dir, decide (da % 2 = 1), decide (sa % 2 = 1), decide (s.cfg.lpfEnable = 1)⟩ with hp
  set q : Bmc2 := ⟨BitVec.ofNat 16 stride, BitVec.ofNat 8 w, BitVec.ofNat 8 (h-1)⟩ with hq
  have xchip : x.chip = { s.idleChip with bmc1 := some p, bmc2 := some q } := by
    rw [x2, b1, a1, f1, f2, f3, f4]
  have hw255 : w ≤ 255 := by omega
  have esrc : sa = if src < dst then src + ((h-1)*stride + (w-1)) else src := by
    rw [hsa, hdir]; unfold blitAddress blitDescends rectSpan; simp
  have edst : da = if src < dst then dst + ((h-1)*stride + (w-1)) else dst := by
    rw [hda, hdir]; unfold blitAddress blitDescends rectSpan; simp
  have hsa' : sa < 131072 := by rw [esrc]; split <;> omega
  have hda' : da < 131072 := by rw [edst]; split <;> omega
  have psrc : p.src.toNat = sa := by
    rw [Bmc1.src_toNat, hp, hsw]; simp only [BitVec.toNat_ofNat]
    have : (decide (sa % 2 = 1)).toNat = sa % 2 := by rcases Nat.mod_two_eq_zero_or_one sa with h | h <;> simp [h]
    rw [this]; omega
  have pdst : p.dst.toNat = da := by
    rw [Bmc1.dst_toNat, hp, hdw]; simp only [BitVec.toNat_ofNat]
    have : (decide (da % 2 = 1)).toNat = da % 2 := by rcases Nat.mod_two_eq_zero_or_one da with h | h <;> simp [h]
    rw [this]; omega
  have qw : q.width.toNat = w := by rw [hq]; simp; omega
  have qh : q.hm1.toNat + 1 = h := by rw [hq]; simp; omega
  have qs : q.stride.toNat = stride := by rw [hq]; simp; omega
  set y := x.transfer (frameBytes x.cfg.opmap .bmstart) with hy
  have ychip : y.chip = { s.idleChip with bmc1 := some p, bmc2 := some q } := by
    rw [hT]; simp only [xchip]; rfl
  have ycfg : y.cfg = s.cfg := (x.transfer_host _).1.trans (x1.trans c2)
  have hstart : y.startCheck = .ok (latch p q) := by
    unfold State.startCheck
    rw [ychip, if_neg (by simp)]
    simp only [psrc, pdst, qw, qh, qs, ycfg]
    rw [if_neg (by omega), if_neg, if_neg]
    · simp only [moveUnreliable, Bool.or_eq_true, decide_eq_true_eq, not_or]
      refine ⟨⟨by omega, by omega⟩, ?_⟩
      rw [esrc, edst]
      split
      · rw [overlap1_shift, hov]; simp
      · rw [hov]; simp
    · have hpd : p.dir = decide (src < dst) := rfl
      show ¬ moveOutside p.dir sa da (rectSpan w h stride) = true
      rw [hpd, esrc, edst]; unfold moveOutside rectSpan
      by_cases hlt : src < dst <;> simp [hlt]
      omega
  have hfits := State.startCheck_fits hstart
  have hport : y.portInstr .bmstart = (y.startMove (latch p q)).respondDraws 1 := by
    simp only [State.portInstr, State.portBmstart, hstart]
  rw [hport] at hs
  refine ⟨_, latch p q, rfl, ?_, ?_, ?_, ?_, ?_, ?_, hfits, qw, ?_, qs, ?_, ?_, ?_⟩
  · rw [hs]; show ({y.block with movePending := true} : Block) = _
    have : y.block = _ := (x.transfer_host _).2.1
    rw [this, x3, b3, a3]
  · rw [hs]; show y.faults = _
    exact (x.transfer_host _).2.2.2.2.2.1.trans (x4.trans (b4.trans a4))
  · rw [hs]; exact ycfg
  · rw [hs]; show y.hostResetIn = _
    exact (x.transfer_host _).2.2.2.2.2.2.2.trans (by rw [x5]; rfl)
  · rw [hs]
    simp only [State.setPending, State.setBlock, State.respondDraws_chip, State.startMove, State.setChip]
    rw [ychip]
  · rw [hs]
    simp only [State.setPending, State.setBlock, State.respondDraws_chip, State.startMove, State.setChip]
    rw [ychip]
    rfl
  · rw [latch_height]; exact qh
  · show dir = _; rw [hdir]; rfl
  · show p.src.toNat = _; rw [psrc, esrc]
  · show p.dst.toNat = _; rw [pdst, edst]

/-- The formats of the two parameter frames (R122–R129). -/
theorem frameInstr_bmc1 (sw dw : Half) (f : Byte) :
    frameInstr .bmc1 (bytes16 sw ++ bytes16 dw ++ [f]) = some (.bmc1 sw dw f) := by
  show some (Instr.bmc1 (hi sw ++ lo sw) (hi dw ++ lo dw) f) = _
  rw [hi_append_lo, hi_append_lo]

theorem frameInstr_bmc2 (st : Half) (w h : Byte) :
    frameInstr .bmc2 (bytes16 st ++ [w, h]) = some (.bmc2 st w h) := by
  show some (Instr.bmc2 (hi st ++ lo st) w h) = _
  rw [hi_append_lo]

/-- A register frame sent while a move runs and delay is left (R199, R410): the chip is as the frame's write makes it, the
old move runs on, and one frame of delay less is left. -/
theorem State.sendFrame_delayed {s : State} {i : Instr} {c : Cmd} {payload : List Byte} {w : Chip → Chip} {k : Nat}
    (hm : s.cfg.opmap.injective = true) (hb : s.chip.busy = true) (hd : s.delay ≠ 0) (hr : s.hostResetIn = none)
    (hp : frameInstr c payload = some i) (hc : ∀ f1 f2, i ≠ .bmstatus f1 f2)
    (he : frameBytes s.cfg.opmap i = s.cfg.opmap.code c :: payload)
    (hi : ∀ u : State, u.portInstr i = (u.setChip (w u.chip)).respondDraws k) :
    let t := s.sendFrame (frameBytes s.cfg.opmap i)
    t.chip = w { s.chip with select := false } ∧ t.cfg = s.cfg ∧ t.block = s.block ∧ t.faults = s.faults ∧
    t.hostResetIn = none ∧ t.delay = s.delay - 1 ∧ t.busyPolls = s.busyPolls ∧
    t.sent = s.sent ++ [s.cfg.opmap.code c :: payload] := by
  have ht := State.transfer_delayed hb hd (isStatusFrame_of_format hm hp hc)
  have hport : (s.transfer (s.cfg.opmap.code c :: payload)).portFrame (s.cfg.opmap.code c :: payload) =
      (s.transfer (s.cfg.opmap.code c :: payload)).portInstr i := by
    have hcfg := (s.transfer_host (s.cfg.opmap.code c :: payload)).1
    have := State.portFrame_of_format (s := s.transfer (s.cfg.opmap.code c :: payload)) (by rw [hcfg]; exact hm) hp
    rwa [hcfg] at this
  simp only [he, State.sendFrame]
  rw [hport, hi, ht]
  exact ⟨rfl, rfl, rfl, rfl, by simp [State.setChip, State.respondDraws, State.respond, hr], rfl, rfl, rfl⟩

/-- A `BLIT` whose checks pass and whose wait times out (R420, R464): `BMC1` and `BMC2` are written, the polls are sent,
and the old move runs on. -/
theorem State.opBlit_timeout (s : State) (src dst w h stride n : Nat) (hv : s.cfg.valid = true)
    (hb : s.chip.busy = true) (hl : s.cfg.busyPollLimit = some n) (hn : n ≤ s.pollsLeft) (hd : n + 2 ≤ s.delay)
    (hr : s.hostResetIn = none)
    (h0 : 0 < h) (h256 : h ≤ 256) (hst : stride ≤ 65535) (hrow : h = 1 ∨ w ≤ stride)
    (hsrc : src + (h - 1) * stride + w ≤ 131072) (hdst : dst + (h - 1) * stride + w ≤ 131072)
    (hmin : s.cfg.bmMinWidth ≤ w) (hmax : w ≤ s.cfg.bmMaxWidth) (hov : overlap1 src dst h stride = false) :
    ∃ t : State, s.opBlit src dst w h stride = .err .timeout (t.fail .timeout) ∧ t.cfg = s.cfg ∧
      t.chip = { s.chip with select := false, bmc1 := t.chip.bmc1, bmc2 := t.chip.bmc2 } ∧
      t.chip.bmc1 = some
        { srcW := BitVec.ofNat 16 (blitAddress (blitDescends src dst) src w h stride / 2)
          dstW := BitVec.ofNat 16 (blitAddress (blitDescends src dst) dst w h stride / 2)
          dir := blitDescends src dst
          dstOdd := decide (blitAddress (blitDescends src dst) dst w h stride % 2 = 1)
          srcOdd := decide (blitAddress (blitDescends src dst) src w h stride % 2 = 1)
          lpf := decide (s.cfg.lpfEnable = 1) } ∧
      t.chip.bmc2 = some ⟨BitVec.ofNat 16 stride, BitVec.ofNat 8 w, BitVec.ofNat 8 (h - 1)⟩ ∧
      t.block = s.block ∧ t.faults = s.faults ∧ t.hostResetIn = none ∧
      t.sent = s.sent ++ [frameBytes s.cfg.opmap (blitFrame1 s.cfg src dst w h stride),
        frameBytes s.cfg.opmap (blitFrame2 w h stride)] ++ List.replicate n (statusBytes s.cfg.opmap) := by
  have hm := Cfg.valid_injective hv
  have hlim := Cfg.valid_moveLimits hv
  have hlev := Cfg.valid_levels hv
  have e0 : s.opBlit src dst w h stride = s.blitFrames src dst w h stride := by
    unfold State.opBlit
    rw [if_neg (by simp [hv]), if_neg (by omega), if_neg (by simp [blitOutOfRange]; omega), if_neg (by omega),
      if_neg (by omega),
      if_neg (by simp [hov])]
  rw [e0]
  unfold State.blitFrames
  set dir := blitDescends src dst with hdir
  set sa := blitAddress dir src w h stride with hsa
  set da := blitAddress dir dst w h stride with hda
  obtain ⟨f0, f1, f2, f3, f4⟩ := blitFlags_bits s.cfg hlev.2.2.2.2.2.2 dir sa da
  set sw := BitVec.ofNat 16 (sa / 2) with hsw
  set dw := BitVec.ofNat 16 (da / 2) with hdw
  set f := blitFlags s.cfg dir sa da with hf
  have eb1 : blitFrame1 s.cfg src dst w h stride = .bmc1 sw dw f := rfl
  have eb2 : blitFrame2 w h stride = .bmc2 (BitVec.ofNat 16 stride) (BitVec.ofNat 8 w) (BitVec.ofNat 8 (h - 1)) := rfl
  rw [eb1, eb2, State.emit_eq (by rw [hr]; simp), Run.andThen_ok]
  obtain ⟨a1, a2, a3, a4, a5, a6, a7, a8⟩ := State.sendFrame_delayed (i := .bmc1 sw dw f) (c := .bmc1)
    (payload := bytes16 sw ++ bytes16 dw ++ [f]) (k := 6)
    (w := fun c => { c with bmc1 := some ⟨sw, dw, f.getLsbD 0, f.getLsbD 1, f.getLsbD 2, f.getLsbD 4⟩ })
    hm hb (by omega) hr (frameInstr_bmc1 sw dw f) (fun _ _ => by simp) rfl
    (by intro u; simp only [State.portInstr, State.portBmc1, State.registerFrame, reservedFault, f0]; rfl)
  set t1 := s.sendFrame (frameBytes s.cfg.opmap (.bmc1 sw dw f))
  rw [State.emit_eq (by rw [a5]; simp), Run.andThen_ok]
  have b1busy : t1.chip.busy = true := by rw [a1]; exact hb
  obtain ⟨b1, b2, b3, b4, b5, b6, b7, b8⟩ := State.sendFrame_delayed (s := t1)
    (i := .bmc2 (BitVec.ofNat 16 stride) (BitVec.ofNat 8 w) (BitVec.ofNat 8 (h - 1))) (c := .bmc2)
    (payload := bytes16 (BitVec.ofNat 16 stride) ++ [BitVec.ofNat 8 w, BitVec.ofNat 8 (h - 1)]) (k := 5)
    (w := fun c => { c with bmc2 := some ⟨BitVec.ofNat 16 stride, BitVec.ofNat 8 w, BitVec.ofNat 8 (h - 1)⟩ })
    (by rw [a2]; exact hm) b1busy (by omega) a5 (frameInstr_bmc2 _ _ _) (fun _ _ => by simp) rfl (fun _ => rfl)
  set t2 := t1.sendFrame (frameBytes t1.cfg.opmap
    (.bmc2 (BitVec.ofNat 16 stride) (BitVec.ofNat 8 w) (BitVec.ofNat 8 (h - 1))))
  have c2 : t2.cfg = s.cfg := b2.trans a2
  have hpolls : n ≤ t2.pollsLeft := by
    unfold State.pollsLeft at hn ⊢
    rw [c2, b6, a6, b7, a7]
    split <;> rename_i hk <;> simp only [hk] at hn <;> omega
  obtain ⟨t, e, g1, g2, g3, g4, g5, -, g7⟩ := State.pollLoop_timeout (s := t2) (by rw [c2]; exact hm) b5
    (by rw [b1]; exact b1busy) hpolls
  have el : t2.pollIdle = State.pollLoop n t2 := by simp [State.pollIdle, State.pollLimit, c2, hl]
  have g2' : t.chip = t2.chip := by
    rcases g2 with g2 | g2
    · exact g2
    · rw [g2, b1]
  refine ⟨t, by rw [el, e]; rfl, g1.trans c2, ?_, ?_, ?_, ?_, ?_, g5, ?_⟩
  · rw [g2', b1, a1]
  · rw [g2', b1, a1]; simp only [f1, f2, f3, f4]
  · rw [g2', b1]
  · rw [g3, b3, a3]
  · rw [g4, b4, a4]
  · rw [g7, b8, a8, c2, a2]
    simp only [List.append_assoc]
    rfl

/-- The SRAM of a state whose move is running, before and after the move. -/
theorem State.settledMem_of_move {s t : State} {v : ActiveMove}
    (h : t.chip = { s.idleChip with bmc1 := t.chip.bmc1, bmc2 := t.chip.bmc2, active := some v, busy := true }) :
    t.chip.mem = s.settledMem ∧ t.settledMem = v.run s.settledMem := by
  have hb : t.chip.busy = true := by rw [h]
  have ha : t.chip.active = some v := by rw [h]
  have hm : t.chip.mem = s.settledMem := by rw [h]; exact State.idleChip_mem _
  refine ⟨hm, ?_⟩
  unfold State.settledMem
  rw [if_pos hb]
  simp only [State.complete, ha, hm, State.setChip]; rfl

/-- The chunks of `BLIT_SPLIT` (R426): at least one, each between the quotient and `BM_MAX_WIDTH` wide, side by side,
and together as wide as the rectangle. -/
theorem chunk_bounds (c : Cfg) (w : Nat) (hmax : 1 ≤ c.bmMaxWidth) (hw : 1 ≤ w) :
   1 ≤ chunkCount c w ∧ (∀ i, chunkWidth c w i ≤ c.bmMaxWidth) ∧ (∀ i, w / chunkCount c w ≤ chunkWidth c w i) ∧
   chunkOffset c w (chunkCount c w) = w ∧ (∀ i, chunkOffset c w (i+1) = chunkOffset c w i + chunkWidth c w i) := by
  have hk : 1 ≤ chunkCount c w := by
    unfold chunkCount; rw [Nat.one_le_div_iff (by omega)]; omega
  have hkm : w ≤ chunkCount c w * c.bmMaxWidth := by
    unfold chunkCount
    have := Nat.div_add_mod (w + c.bmMaxWidth - 1) c.bmMaxWidth
    have h2 := Nat.mod_lt (w + c.bmMaxWidth - 1) (show 0 < c.bmMaxWidth by omega)
    rw [Nat.mul_comm] at this
    omega
  have hsucc : ∀ i, chunkOffset c w (i+1) = chunkOffset c w i + chunkWidth c w i := by
    intro i; unfold chunkOffset; rw [List.range_succ]; simp
  refine ⟨hk, ?_, ?_, ?_, hsucc⟩
  · intro i
    unfold chunkWidth
    set k := chunkCount c w
    have h1 := Nat.div_add_mod w k
    have h2 : w / k ≤ c.bmMaxWidth := by
      rw [Nat.div_le_iff_le_mul_add_pred (by omega)]
      have := Nat.mul_comm k c.bmMaxWidth; omega
    split
    · rename_i hi
      by_contra hcon
      have : w / k = c.bmMaxWidth := by omega
      rw [this] at h1
      omega
    · omega
  · intro i; unfold chunkWidth; omega
  · set k := chunkCount c w with hk'
    have : ∀ j, j ≤ k → chunkOffset c w j = j * (w / k) + min j (w % k) := by
      intro j
      induction j with
      | zero => intro _; simp [chunkOffset]
      | succ j ih =>
        intro hj
        rw [hsucc, ih (by omega)]
        unfold chunkWidth
        rw [← hk', Nat.add_mul]
        split <;> omega
    rw [this k (le_refl _)]
    have := Nat.mod_lt w (show 0 < k by omega)
    have h1 := Nat.div_add_mod w k
    omega

end Sys2Proof.Machine
end

