-- ==== Sys2Proof/Laws/ChipLayer.lean ====
section
/-! SUPPORT. A frame reads and writes the chip layer alone: two states with one chip layer still have one after it. -/

namespace Sys2Proof.Machine

/-- The two states have the same chip layer: chip, fault record, draws and engine schedule. -/
def SameChipLayer (s t : State) : Prop :=
  t.chip = s.chip ∧ t.cfg = s.cfg ∧ t.faults = s.faults ∧ t.draws = s.draws ∧ t.moves = s.moves ∧
  t.delay = s.delay ∧ t.busyPolls = s.busyPolls

theorem SameChipLayer.engineGap {s t : State} (h : SameChipLayer s t) (b : Bool) :
    SameChipLayer (s.engineGap b) (t.engineGap b) := by
  obtain ⟨h1, h2, h3, h4, h5, h6, h7⟩ := h
  have hp : t.pollBoundReached = s.pollBoundReached := by unfold State.pollBoundReached; rw [h2, h7]
  unfold State.engineGap
  rw [h1, h6, hp]
  by_cases hb : s.chip.busy = true
  · simp only [hb, if_true]
    split
    · exact ⟨by simp [State.complete, h1], h2, h3, h4, h5, h6, h7⟩
    · exact ⟨rfl, h2, h3, h4, h5, rfl, h7⟩
  · simp only [hb]
    exact ⟨h1, h2, h3, h4, h5, h6, h7⟩

theorem SameChipLayer.transfer {s t : State} (h : SameChipLayer s t) (b : List Byte) :
    SameChipLayer (s.transfer b) (t.transfer b) := by
  unfold State.transfer
  have := SameChipLayer.engineGap h (isStatusFrame s.cfg.opmap b)
  rw [h.2.1]
  obtain ⟨h1, h2, h3, h4, h5, h6, h7⟩ := this
  exact ⟨by simp [h1], h2, h3, h4, h5, h6, h7⟩

theorem SameChipLayer.respond {s t : State} (h : SameChipLayer s t) (r) :
    SameChipLayer (s.respond r) (t.respond r) := by
  obtain ⟨h1, h2, h3, h4, h5, h6, h7⟩ := h
  exact ⟨h1,h2,h3,by simp [State.respond, h4],h5,h6,h7⟩

theorem SameChipLayer.drawBytes {s t : State} (h : SameChipLayer s t) (n) : t.drawBytes n = s.drawBytes n := by
  unfold State.drawBytes; rw [h.2.2.2.1]

theorem SameChipLayer.respondDraws {s t : State} (h : SameChipLayer s t) (r) :
    SameChipLayer (s.respondDraws r) (t.respondDraws r) := by
  unfold State.respondDraws; rw [SameChipLayer.drawBytes h]; exact SameChipLayer.respond h _

theorem SameChipLayer.raise {s t : State} (h : SameChipLayer s t) (f b a) :
    SameChipLayer (s.raise f b a) (t.raise f b a) := by
  obtain ⟨h1, h2, h3, h4, h5, h6, h7⟩ := h
  exact ⟨h1,h2,by simp [State.raise, h3],h4,h5,h6,h7⟩

theorem SameChipLayer.setChip {s t : State} (h : SameChipLayer s t) (c) :
    SameChipLayer (s.setChip c) (t.setChip c) := by
  obtain ⟨h1, h2, h3, h4, h5, h6, h7⟩ := h
  exact ⟨rfl, h2, h3, h4, h5, h6, h7⟩

theorem SameChipLayer.registerFrame {s t : State} (h : SameChipLayer s t) (n c f w) :
    SameChipLayer (s.registerFrame n c f w) (t.registerFrame n c f w) := by
  unfold State.registerFrame State.opcode
  rw [h.2.1]
  cases f
  · exact SameChipLayer.respondDraws (SameChipLayer.setChip h _) _
  · exact SameChipLayer.respondDraws (SameChipLayer.raise h _ _ _) _

theorem SameChipLayer.portInstr {s t : State} (h : SameChipLayer s t) (i : Instr) :
    SameChipLayer (s.portInstr i) (t.portInstr i) := by
  have h1 := h.1
  have h2 := h.2.1
  have hmf : ∀ a k, t.memoryFault a k = s.memoryFault a k := by intro a k; unfold State.memoryFault; rw [h1, h2]
  have hop : ∀ c, t.opcode c = s.opcode c := by intro c; unfold State.opcode; rw [h2]
  cases i
  case write a d =>
    simp only [State.portInstr, State.portWrite, hmf, hop]
    split
    · exact SameChipLayer.respondDraws (SameChipLayer.raise h _ _ _) _
    · split
      · exact SameChipLayer.respondDraws (SameChipLayer.raise h _ _ _) _
      · refine SameChipLayer.respondDraws ?_ _
        obtain ⟨g1, g2, g3, g4, g5, g6, g7⟩ := h
        exact ⟨by simp [State.setMem, g1],g2,g3,g4,g5,g6,g7⟩
  case read a d =>
    simp only [State.portInstr, State.portRead, hmf, hop]
    split
    · exact SameChipLayer.respondDraws (SameChipLayer.raise h _ _ _) _
    · split
      · exact SameChipLayer.respondDraws (SameChipLayer.raise h _ _ _) _
      · rw [h1]
        have : t.readResponse a.toNat d.length = s.readResponse a.toNat d.length := by
          unfold State.readResponse; rw [SameChipLayer.drawBytes h, h1, h.2.2.2.1]
        rw [this]
        split
        · exact SameChipLayer.respond (SameChipLayer.raise h _ _ _) _
        · exact SameChipLayer.respond h _
  case bmstart =>
    simp only [State.portInstr, State.portBmstart, hop]
    have : t.startCheck = s.startCheck := by unfold State.startCheck; rw [h1, h2]
    rw [this, h1]
    split
    · exact SameChipLayer.respondDraws (SameChipLayer.raise h _ _ _) _
    · refine SameChipLayer.respondDraws ?_ _
      obtain ⟨g1, g2, g3, g4, g5, g6, g7⟩ := h
      exact ⟨by simp [State.startMove, g1],g2,g3,g4,by simp [State.startMove, g5],by simp [State.startMove, g5],rfl⟩
  case bmstatus =>
    simp only [State.portInstr, State.portBmstatus]
    rw [h1, h.2.2.2.1]
    have := SameChipLayer.respond h [Config.freeByte s.draws,
      statusHigh s.chip.busy (Config.freeByte (s.draws + 1)), Config.freeByte (s.draws + 2)]
    obtain ⟨g1, g2, g3, g4, g5, g6, g7⟩ := this
    exact ⟨g1,g2,g3,g4,g5,g6,by simp [h.2.2.2.2.2.2]⟩
  all_goals first
    | (simp only [State.portInstr, State.portMultiic, State.portWrsr, State.portPicstart, State.portPicend,
        State.portLinelen,
        State.portVdctrl1, State.portIndexstart, State.portVdctrl2, State.portProgram, State.portBmc1, State.portBmc2,
        h1, h2]
       exact SameChipLayer.registerFrame h _ _ _ _)
    | exact h

theorem SameChipLayer.rejectFrame {s t : State} (h : SameChipLayer s t) (f b p) :
    SameChipLayer (s.rejectFrame f b p) (t.rejectFrame f b p) := by
  have ha : t.faultAddress = s.faultAddress := by
    funext c q
    unfold State.faultAddress
    rw [h.1]
  unfold State.rejectFrame
  rw [h.2.1, ha]
  exact SameChipLayer.respondDraws (SameChipLayer.raise h _ _ _) _

theorem SameChipLayer.portFrame {s t : State} (h : SameChipLayer s t) (b) :
    SameChipLayer (s.portFrame b) (t.portFrame b) := by
  unfold State.portFrame
  rw [h.2.1]
  split
  · exact SameChipLayer.portInstr h _
  · exact SameChipLayer.rejectFrame h _ _ _
  · exact SameChipLayer.rejectFrame h _ _ _
  all_goals exact h

theorem SameChipLayer.replay {s t : State} (h : SameChipLayer s t) (fs) :
    SameChipLayer (s.replay fs) (t.replay fs) := by
  induction fs generalizing s t with
  | nil => exact h
  | cons f fs ih => exact ih (SameChipLayer.portFrame (SameChipLayer.transfer h f) f)

end Sys2Proof.Machine
end

