-- ==== Sys2Proof/Tests/Slice0.lean ====
section
/-! SUPPORT. The model's own tests. Expected values are the vectors of spec/95_test_vectors.md, named in each comment,
or hand calculation from the rule named; after them, for each statement with hypotheses, a state and operands that meet
them. -/

namespace Sys2Proof.Machine.Tests

open Sys2Proof

/-! ## Helpers -/

/-- A field of the next state, where there is one. -/
def after {α : Type} (o : Host.Outcome State Fault Refusal) (f : State → α) : Option α :=
  match o with
  | .next t => some (f t)
  | .fault _ | .refused _ => none

/-- One step on a frame. -/
def onFrame (s : State) (bytes : List Byte) : Host.Outcome State Fault Refusal :=
  step (s.withRequest (.frame bytes))

/-- The reset state, set for memory frames (B3.3, B3.6), with some bytes in the SRAM. -/
def ready (m : Memory) : State :=
  { State.reset with chip := { Chip.reset with mode := some 1, multiic := some 0x0F, mem := m } }

/-- Eight bytes from address 0 on. -/
def eight : Memory := [(0, 0x10), (1, 0x11), (2, 0x12), (3, 0x13), (4, 0x14), (5, 0x15), (6, 0x16), (7, 0x17)]

/-- A chip whose next move is one row of eight bytes with these addresses and flags (B3.30, B3.34). -/
def aimed (srcW dstW : Half) (dir dstOdd srcOdd : Bool) (width : Byte) : State :=
  let s := ready eight
  { s with chip := { s.chip with bmc1 := some ⟨srcW, dstW, dir, dstOdd, srcOdd, true⟩, bmc2 := some ⟨322, width, 0⟩ } }

/-- The move of eight bytes from 0 to 0x10, ascending. -/
def move8 : ActiveMove := ⟨0, 0x10, false, 322, 8, 1⟩

/-- That move running, known to the block, with a delay left. -/
def moving (delay : Nat) : State :=
  let s := aimed 0 8 false false false 8
  { s with
    chip := { s.chip with active := some move8, busy := true }
    block := { s.block with movePending := true }
    delay := delay }

/-- A configuration that is not valid (B4.9). -/
def badConfig : State := State.resetWith { Cfg.pal with width := 2000 }

/-! ## Well-formedness -/

theorem test_write_of_no_byte_is_ill_formed : (Instr.write 0 []).wellFormed = false := by decide
theorem test_read_of_no_byte_is_ill_formed : (Instr.read 0 []).wellFormed = false := by decide
theorem test_write_of_a_byte_is_well_formed : (Instr.write 0 [0x55]).wellFormed = true := by decide

/-! ## Decoding: words written out from the encodings of R122–R129 and R133 -/

/-- The decoder on a frame under the reference `OPMAP`. -/
def reads (bytes : List Byte) : Decoded := decode OpMap.reference (.frame bytes)

/-- The decoder on a call. -/
def calls (code : Nat) (args : List Nat) : Decoded := decode OpMap.reference (.call code args)

theorem test_decode_multiic : reads [0xB8, 0x0F] = .instr (.multiic 0x0F) := by decide -- B1.2
theorem test_decode_wrsr : reads [0x01, 0x40] = .instr (.wrsr 0x40) := by decide -- B3.6
theorem test_decode_write : reads [0x02, 0x00, 0x46, 0xF0, 0x00, 0x00, 0x20] =
    .instr (.write 0x0046F0 [0, 0, 0x20]) := by decide -- B1.5
theorem test_decode_read : reads [0x03, 0x00, 0x4B, 0xDE, 0x00] = .instr (.read 0x004BDE [0]) := by decide -- B1.6
theorem test_decode_picstart : reads [0x28, 0x01, 0xEB] = .instr (.picstart 0x01EB) := by decide -- B3.16
theorem test_decode_picend : reads [0x29, 0x08, 0x2B] = .instr (.picend 0x082B) := by decide -- B3.17
theorem test_decode_linelen : reads [0x2A, 0x08, 0xDE] = .instr (.linelen 0x08DE) := by decide -- B1.1
theorem test_decode_vdctrl1 : reads [0x2B, 0x30, 0x00] = .instr (.vdctrl1 0x3000) := by decide -- B3.20
theorem test_decode_indexstart : reads [0x2C, 0x00, 0x00, 0x46, 0xF0] = .instr (.indexstart 0x46F0) := by decide -- B1.4
theorem test_decode_vdctrl2 : reads [0x2D, 0xD5, 0x39] = .instr (.vdctrl2 0xD539) := by decide -- B3.25
theorem test_decode_program : reads [0x30, 0x03, 0x46, 0x45, 0x8C] = .instr (.program 0x0346458C) := by decide -- B1.3
theorem test_decode_bmc1 : reads [0x34, 0x25, 0x51, 0x25, 0xF2, 0x17] =
    .instr (.bmc1 0x2551 0x25F2 0x17) := by decide -- B1.7
theorem test_decode_bmc2 : reads [0x35, 0x01, 0x42, 0xA0, 0xEE] = .instr (.bmc2 322 160 238) := by decide -- B1.8
theorem test_decode_bmstart : reads [0x36] = .instr .bmstart := by decide -- B1.9
theorem test_decode_bmstatus : reads [0x53, 0x00, 0x00] = .instr (.bmstatus 0 0) := by decide -- B1.10
theorem test_decode_short_write : reads [0x02, 0, 0, 0] = .frameLength 0x02 := by decide -- B1.11
theorem test_decode_unknown_opcode : reads [0x37] = .unknownOpcode 0x37 := by decide -- B1.12
theorem test_decode_no_frame : reads [] = .noFrame := by decide -- R192

theorem test_decode_init : calls 0x00 [] = .instr .init := by decide
theorem test_decode_protoline_address : calls 0x01 [2] = .instr (.protolineAddress 2) := by decide
theorem test_decode_picture_line_address : calls 0x02 [239] = .instr (.pictureLineAddress 239) := by decide
theorem test_decode_pixel_address : calls 0x03 [319, 239] = .instr (.pixelAddress 319 239) := by decide
theorem test_decode_write_index_entry : calls 0x04 [5, 0, 3] = .instr (.writeIndexEntry 5 0 3) := by decide
theorem test_decode_fill_protoline : calls 0x05 [1, 2260, 10, 0x66] = .instr (.fillProtoline 1 2260 10 0x66) := by decide
theorem test_decode_set_color_burst : calls 0x06 [1] = .instr (.setColorBurst 1) := by decide
theorem test_decode_write_pixel : calls 0x07 [3, 4, 0xB7] = .instr (.writePixel 3 4 0xB7) := by decide
theorem test_decode_read_pixel : calls 0x08 [3, 4] = .instr (.readPixel 3 4) := by decide
theorem test_decode_write_byte : calls 0x09 [0x1FFFF, 0x5A] = .instr (.writeByte 0x1FFFF 0x5A) := by decide
theorem test_decode_write_word : calls 0x0A [0xBC3E, 0x1234] = .instr (.writeWord 0xBC3E 0x1234) := by decide
theorem test_decode_read_byte : calls 0x0B [7] = .instr (.readByte 7) := by decide
theorem test_decode_blit : calls 0x0C [1, 2, 3, 4, 5] = .instr (.blit 1 2 3 4 5) := by decide
theorem test_decode_blit_split : calls 0x0D [1, 2, 3, 4, 5] = .instr (.blitSplit 1 2 3 4 5) := by decide
theorem test_decode_wait_idle : calls 0x0E [] = .instr .waitIdle := by decide
theorem test_decode_read_status : calls 0x0F [] = .instr .readStatus := by decide
theorem test_decode_unknown_host_op : calls 0x10 [] = .unknownHostOp 0x10 := by decide -- B9.6
theorem test_decode_wrong_arity : calls 0x07 [1, 2] = .callArity 0x07 := by decide

/-- A table word of 16 bits: `B8` is the first byte on the wire. -/
theorem test_table_word_frame : decodeTableWord 16 0x0FB8 = some (.multiic 0x0F) := by decide
/-- A table word of a host-op code. -/
theorem test_table_word_call : decodeTableWord 8 0x0E = some .waitIdle := by decide
theorem test_fetch_word_runs :
    after (step (State.reset.withFetchWord 16 0x0FB8)) (fun t => t.chip.multiic) = some (some 0x0F) := by decide

/-! ## Chip commands (B3) -/

theorem test_write_before_mode_is_set : after (onFrame State.reset [0x02, 0, 0, 0, 0x55]) (fun t => (t.faults, t.chip.mem)) =
    some ([⟨.mode, 0x02, some 0⟩], []) := by decide -- B3.1
theorem test_multiic_on : after (onFrame State.reset [0xB8, 0x0E]) (fun t => (t.faults, t.chip.multiic)) =
    some ([⟨.multiic, 0xB8, none⟩], none) := by decide -- B3.2
theorem test_wrsr_reserved : after (onFrame State.reset [0x01, 0x41]) (fun t => (t.faults, t.chip.mode)) =
    some ([⟨.reserved, 0x01, none⟩], none) := by decide -- B3.4
theorem test_wrsr_sequential : after (onFrame State.reset [0x01, 0x40]) (fun t => (t.faults, t.chip.mode)) =
    some ([], some 1) := by decide -- B3.6
theorem test_write_stores : after (onFrame (ready []) [0x02, 0, 0, 0, 0x55]) (fun t => (t.faults, t.chip.mem)) =
    some ([], [(0, 0x55)]) := by decide -- B3.8
theorem test_read_answers : after (onFrame (ready [(0, 0x55)]) [0x03, 0, 0, 0, 0]) (fun t => (t.faults, t.response[4]?)) =
    some ([], some 0x55) := by decide -- B3.9
theorem test_read_unwritten : after (onFrame (ready [(0x1FFFF, 0xAA)]) [0x03, 0x01, 0xFF, 0xFE, 0, 0])
    (fun t => (t.faults, t.response[5]?)) = some ([⟨.unwrittenRead, 0x03, some 0x1FFFE⟩], some 0xAA) := by decide -- B3.14
/-- The fault of a `WRITE` names the frame's address, whatever the fault (R468): B3.11, B3.37, and a frame of no data byte
(B3.7, whose column shows none; log entry 4). -/
theorem test_write_faults_name_the_address :
    after (onFrame (ready []) [0x02, 0x01, 0xFF, 0xFF, 0xAA, 0xBB]) (fun t => (t.faults, t.chip.mem)) =
      some ([⟨.addr, 0x02, some 0x1FFFF⟩], []) ∧
    after (onFrame (moving 1) [0x02, 0, 0, 0, 0x55]) (fun t => (t.faults, t.chip.mem)) =
      some ([⟨.busyAccess, 0x02, some 0⟩], eight) ∧
    after (onFrame (ready []) [0x02, 0x01, 0xFF, 0xFF]) (fun t => (t.faults, t.chip.mem)) =
      some ([⟨.frameLength, 0x02, some 0x1FFFF⟩], []) := by decide
theorem test_picstart_reserved : after (onFrame State.reset [0x28, 0x10, 0x00]) (fun t => (t.faults, t.chip.picstart)) =
    some ([⟨.reserved, 0x28, none⟩], none) := by decide -- B3.15
theorem test_picstart : after (onFrame State.reset [0x28, 0x01, 0xEB]) (fun t => t.chip.picstart) =
    some (some 491) := by decide -- B3.16
theorem test_picend : after (onFrame State.reset [0x29, 0x08, 0x2B]) (fun t => t.chip.picend) =
    some (some 2091) := by decide -- B3.17
theorem test_linelen : after (onFrame State.reset [0x2A, 0x08, 0xDE]) (fun t => t.chip.linelen) =
    some (some 2270) := by decide -- B3.18
theorem test_vdctrl1 : after (onFrame State.reset [0x2B, 0x30, 0x00]) (fun t => t.chip.vdctrl1) =
    some (some ⟨true, true⟩) := by decide -- B3.20
theorem test_vdctrl1_reserved : after (onFrame State.reset [0x2B, 0x70, 0x00]) (fun t => (t.faults, t.chip.vdctrl1)) =
    some ([⟨.reserved, 0x2B, none⟩], none) := by decide -- B3.22
theorem test_indexstart : after (onFrame State.reset [0x2C, 0, 0, 0x46, 0xF0]) (fun t => t.chip.indexstart) =
    some (some 0x46F0) := by decide -- B3.24
theorem test_indexstart_reserved : after (onFrame State.reset [0x2C, 0, 0x02, 0, 0])
    (fun t => (t.faults, t.chip.indexstart)) = some ([⟨.reserved, 0x2C, none⟩], none) := by decide -- B3.23
theorem test_vdctrl2 : after (onFrame State.reset [0x2D, 0xD5, 0x39]) (fun t => (t.chip.enable, t.chip.videoForm)) =
    some (true, some ⟨313, 5, true⟩) := by decide -- B3.25
theorem test_program : after (onFrame State.reset [0x30, 0x03, 0x46, 0x45, 0x8C]) (fun t => t.chip.program) =
    some (some 0x0346458C) := by decide -- B3.26
theorem test_bmc1 : after (onFrame State.reset [0x34, 0, 0, 0, 0, 0x10]) (fun t => t.chip.bmc1) =
    some (some ⟨0, 0, false, false, false, true⟩) := by decide -- B3.30
theorem test_bmc1_reserved : after (onFrame State.reset [0x34, 0, 0, 0, 0, 0x18]) (fun t => (t.faults, t.chip.bmc1)) =
    some ([⟨.reserved, 0x34, none⟩], none) := by decide -- B3.28
theorem test_bmc2 : after (onFrame State.reset [0x35, 0x01, 0x42, 0x08, 0x00]) (fun t => t.chip.bmc2) =
    some (some ⟨322, 8, 0⟩) := by decide -- B3.34
theorem test_bmstart : after (onFrame (aimed 0x0004 0x0008 false false false 8) [0x36])
    (fun t => (t.faults, t.chip.busy, t.chip.active)) = some ([], true, some ⟨8, 0x10, false, 322, 8, 1⟩) := by
  decide -- B3.45
/-- The fault of a `BMSTART` names the source address (R468): B3.44, and B3.38 with `BMC1` of the running move (its
column shows none; log entry 4). -/
theorem test_bmstart_faults_name_the_source :
    after (onFrame (aimed 0x0004 0x0004 false false true 8) [0x36]) (fun t => (t.faults, t.chip.busy)) =
      some ([⟨.bmUnreliable, 0x36, some 9⟩], false) ∧
    after (onFrame (moving 1) [0x36]) (fun t => (t.faults, t.chip.active)) =
      some ([⟨.busyStart, 0x36, some 0⟩], some move8) := by decide
theorem test_bmstatus_changes_nothing : after (onFrame (moving 1) [0x53, 0, 0]) (fun t => (t.chip.busy, t.faults)) =
    some (true, []) := by decide -- B3.36
theorem test_unknown_opcode : after (onFrame State.reset [0x00]) (fun t => t.faults) =
    some [⟨.unknownOpcode, 0x00, none⟩] := by decide -- B3.48

/-- Two overlapping bytes up by two, ascending: the engine reads the SRAM as it goes (R413), so the pattern repeats. -/
theorem test_engine_copies_in_order : ActiveMove.run ⟨0, 2, false, 0, 4, 1⟩ [(0, 0xA), (1, 0xB), (2, 0xC), (3, 0xD)] =
    [(0, 0xA), (1, 0xB), (2, 0xA), (3, 0xB), (4, 0xA), (5, 0xB)] := by decide
theorem test_engine_completes : after (step (moving 0)) (fun t => (t.chip.busy, Memory.read t.chip.mem 0x17)) =
    some (false, some 0x17) := by decide

/-! ## Geometry (B4) and the microcode (B6) -/

theorem test_pal_is_valid : Cfg.pal.valid = true := by decide
theorem test_ntsc_is_valid : Cfg.ntsc.valid = true := by decide
theorem test_wide_picture_is_not_valid : Cfg.valid { Cfg.pal with width := 2000 } = false := by decide -- B4.9
theorem test_pal_geometry : [Cfg.pal.lineLen, Cfg.pal.halfLine, Cfg.pal.syncClks, Cfg.pal.burstStart, Cfg.pal.burstEnd,
    Cfg.pal.blankEnd, Cfg.pal.activeEnd, Cfg.pal.pixelClks, Cfg.pal.picStart, Cfg.pal.picEnd, Cfg.pal.shortClks,
    Cfg.pal.longClks, Cfg.pal.firstPicLine] =
    [2270, 1135, 167, 199, 278, 372, 2211, 5, 491, 2091, 83, 968, 36] := by decide -- B4.5
theorem test_ntsc_geometry : [Cfg.ntsc.lineLen, Cfg.ntsc.halfLine, Cfg.ntsc.syncClks, Cfg.ntsc.burstStart,
    Cfg.ntsc.burstEnd, Cfg.ntsc.blankEnd, Cfg.ntsc.activeEnd, Cfg.ntsc.pixelClks, Cfg.ntsc.picStart, Cfg.ntsc.picEnd,
    Cfg.ntsc.shortClks, Cfg.ntsc.longClks, Cfg.ntsc.firstPicLine] =
    [1820, 910, 135, 152, 223, 269, 1777, 4, 383, 1663, 66, 776, 11] := by decide -- B4.6
theorem test_vdctrl2_values : (Cfg.pal.vdctrl2Value, Cfg.ntsc.vdctrl2Value) = (0xD539, 0x9106) := by decide -- B4.7, B4.8
theorem test_microcode : ucode 0x0346458C 0xB7 = ⟨7, 3, 2⟩ := by decide -- B6.15
theorem test_microcode_without_end : ucode 0x0000001C 0xB7 = ⟨1, 0, 0⟩ := by decide -- B6.21
theorem test_observe_after_reset : State.reset.chip.scanMode = .off := by decide -- B6.24
theorem test_observe_undefined : after (onFrame State.reset [0x2D, 0xD5, 0x39]) (fun t => t.chip.scanMode) =
    some .undefined := by decide -- B6.25

/-! ## Host ops -/

theorem test_protoline_address : after (exec (.protolineAddress 3) State.reset) (fun t => (t.result, t.sent)) =
    some (some (.value .ok 6810), []) := by decide -- B5.1
theorem test_picture_line_address : after (exec (.pictureLineAddress 239) State.reset) (fun t => t.result) =
    some (some (.value .ok 0x1773A)) := by decide -- A2.3
theorem test_picture_line_address_range : after (exec (.pictureLineAddress 240) State.reset)
    (fun t => (t.result, t.block.firstErr)) = some (some (.value .range 0), .range) := by decide -- A2.4
theorem test_pixel_address : after (exec (.pixelAddress 319 239) State.reset) (fun t => t.result) =
    some (some (.value .ok 0x17879)) := by decide -- B5.3
theorem test_pixel_address_range : after (exec (.pixelAddress 320 0) State.reset)
    (fun t => (t.result, t.block.clipCount)) = some (some (.value .range 0), 0) := by decide -- B5.4
theorem test_write_index_entry : after (exec (.writeIndexEntry 40 1 0x1787C) (ready [])) (fun t => (t.result, t.sent)) =
    some (some (.code .ok), [[0x02, 0x00, 0x47, 0x68, 0x7C, 0x78, 0x01]]) := by decide -- B5.7
theorem test_write_index_entry_range : after (exec (.writeIndexEntry 5 1 0x1FEC1) (ready []))
    (fun t => (t.result, t.sent)) = some (some (.code .range), []) := by decide -- B5.11
theorem test_fill_protoline : after (exec (.fillProtoline 1 2268 2 0x0066) (ready [])) (fun t => (t.result, t.sent)) =
    some (some (.code .ok), [[0x02, 0x00, 0x23, 0x74, 0x00, 0x66, 0x00, 0x66]]) := by decide -- R302: 4540 + 2·2268
theorem test_fill_protoline_range : after (exec (.fillProtoline 1 2261 10 0x0066) (ready []))
    (fun t => (t.result, t.sent)) = some (some (.code .range), []) := by decide -- R302
theorem test_write_pixel : after (exec (.writePixel 319 239 0x5A) (ready [])) (fun t => (t.result, t.sent)) =
    some (some (.code .ok), [[0x02, 0x01, 0x78, 0x79, 0x5A]]) := by decide -- A1.2
theorem test_write_pixel_clips : after (exec (.writePixel 320 0 5) (ready [])) (fun t => (t.result, t.sent, t.block.clipCount)) =
    some (some (.code .ok), [], 1) := by decide -- A1.3
theorem test_write_pixel_before_init : after (exec (.writePixel 0 0 1) State.reset) (fun t => (t.result, t.faults)) =
    some (some (.code .ok), [⟨.mode, 0x02, some 0x4A9C⟩]) := by decide -- B10.1
theorem test_read_pixel : after (exec (.readPixel 0 0) (ready [(0x4A9C, 0xB7)])) (fun t => (t.result, t.sent)) =
    some (some (.value .ok 0xB7), [[0x03, 0x00, 0x4A, 0x9C, 0x00]]) := by decide -- A1.1
theorem test_write_byte : after (exec (.writeByte 0x1FFFF 0x5A) (ready [])) (fun t => (t.sent, t.chip.mem)) =
    some ([[0x02, 0x01, 0xFF, 0xFF, 0x5A]], [(0x1FFFF, 0x5A)]) := by decide -- B2.1
theorem test_write_word : after (exec (.writeWord 0xBC3E 0x1234) (ready [])) (fun t => (t.sent, t.chip.mem)) =
    some ([[0x02, 0x01, 0x78, 0x7C, 0x12, 0x34]], [(0x1787C, 0x12), (0x1787D, 0x34)]) := by decide -- B2.2
theorem test_read_byte : after (exec (.readByte 0x1787D) (ready [(0x1787D, 0x34)])) (fun t => (t.result, t.sent)) =
    some (some (.value .ok 0x34), [[0x03, 0x01, 0x78, 0x7D, 0x00]]) := by decide -- B2.3
theorem test_read_byte_range : after (exec (.readByte 0x20000) (ready [])) (fun t => (t.result, t.sent)) =
    some (some (.value .range 0), []) := by decide -- B2.6
theorem test_set_color_burst_range : after (exec (.setColorBurst 2) (ready [])) (fun t => (t.result, t.sent)) =
    some (some (.code .range), []) := by decide -- P3 step 4
/-- P3: the run ends with `E_RANGE`, and, as a test of an error, settled (R530). -/
theorem test_error_test_run_settles :
    ∃ t, exec (.setColorBurst 2) (ready []) = .next t ∧ t.settled true ∧ ¬ t.settled false :=
  ⟨_, rfl, ⟨⟨by decide, rfl, .inl rfl⟩, rfl, rfl⟩, fun h => h.1.2.2.elim (fun e => nomatch e) (fun e => absurd e (by decide))⟩
theorem test_burst_frame : burstFrame Cfg.pal true =
    .write 0x18E (List.replicate 79 [0x0D, 0x66]).flatten := by decide -- B7 frame 324
theorem test_blit_frames : (blitFrame1 Cfg.pal 0x4A9C 0x4BDE 8 1 322, blitFrame2 8 1 322) =
    (.bmc1 0x2551 0x25F2 0x17, .bmc2 322 8 0) := by decide -- B8.1
theorem test_blit_narrow : after (exec (.blit 0x4A9C 0x4BDE 3 1 322) (ready [])) (fun t => (t.result, t.sent)) =
    some (some (.code .blitNarrow), []) := by decide -- B8.4
theorem test_blit_split_chunks : (List.range 5).map (chunkWidth Cfg.pal 1001) = [201, 200, 200, 200, 200] := by
  decide -- B8.15
theorem test_blit_split_overlap : after (exec (.blitSplit 0x4A9C 0x4A9D 320 1 322) (ready []))
    (fun t => (t.result, t.sent)) = some (some (.code .blitOverlap1), []) := by decide -- B8.17
theorem test_wait_idle_without_configuration : after (exec .waitIdle badConfig) (fun t => (t.result, t.sent)) =
    some (some (.code .config), []) := by decide -- R432
theorem test_init_starts : (initStart Cfg.pal).map (frameBytes OpMap.reference) =
    [[0xB8, 0x0F], [0x01, 0x40], [0x28, 0x01, 0xEB], [0x29, 0x08, 0x2B], [0x2B, 0x30, 0x00]] := by decide -- B7
theorem test_init_ends : (initEnd Cfg.ntsc).map (frameBytes OpMap.reference) =
    [[0x34, 0, 0, 0, 0, 0x10], [0x2D, 0x91, 0x06]] := by decide -- B7
theorem test_read_status_after_reset : after (exec .readStatus State.reset) (fun t => t.result) =
    some (some (.status .ok 0 false false)) := by decide -- B2.7
theorem test_host_reset : after (step { moving 3 with inputs := [.hostReset 0] })
    (fun t => (t.block, t.chip.busy)) = some (Block.reset, true) := by decide -- B10.4
theorem test_unknown_host_op : (match step { State.reset with inputs := [.request (.call 0x10 [])] } with
    | .refused r => some r
    | .next _ | .fault _ => none) = some (Refusal.unknownHostOp 0x10) := by decide -- B9.6

/-! ## Witnesses: the hypotheses of each statement are met, clause by clause at the ends of their ranges -/

/-- `overlapsByOne` fails where no multiple of the stride is one away from the difference. -/
theorem not_overlaps {s d h stride : Nat} (hk : ∀ k : Int, (d : Int) - s - k * stride ≠ 1 ∧ (d : Int) - s - k * stride ≠ -1) :
    ¬ overlapsByOne s d h stride := by
  rintro ⟨k, -, h1⟩
  rcases (abs_eq (by norm_num : (0 : Int) ≤ 1)).mp h1 with h2 | h2
  · exact (hk k).1 h2
  · exact (hk k).2 h2

/-- One byte up overlaps. -/
theorem overlaps_next (s stride : Nat) : overlapsByOne s (s + 1) 1 stride := ⟨0, by norm_num, by norm_num⟩

theorem ready_hostReady (m : Memory) : (ready m).hostReady :=
  ⟨test_pal_is_valid, ⟨rfl, rfl⟩, .inl ⟨rfl, rfl⟩, rfl⟩

/-- A host op can start while a move runs (R428). -/
theorem moving_hostReady : (moving 65535).hostReady :=
  ⟨by decide, ⟨rfl, by decide⟩, .inr ⟨rfl, fun _ => by decide⟩, rfl⟩

theorem witness_ModeCommandsWriteOrRefuse :
    (0x0F : Byte).toNat = State.reset.cfg.multiicOff ∧ (0x0E : Byte).toNat ≠ State.reset.cfg.multiicOff ∧
    (0x40 : Byte).toNat = 0x40 ∧ (0x41 : Byte).toNat % 64 ≠ 0 ∧
    ((0x80 : Byte).toNat % 64 = 0 ∧ (0x80 : Byte).toNat / 64 ≠ 1) := by decide

theorem witness_PictureWindowAndLineLengthWrites : (0x0FFF : Half).toNat < 4096 ∧ 4096 ≤ (0x1000 : Half).toNat := by decide

theorem witness_VideoControlWrites : ((0x3000 : Half).toNat < 16384 ∧ (0x3000 : Half).toNat % 4096 = 0) ∧
    (16384 ≤ (0x4000 : Half).toNat ∨ (0x4000 : Half).toNat % 4096 ≠ 0) ∧
    (16384 ≤ (0x0001 : Half).toNat ∨ (0x0001 : Half).toNat % 4096 ≠ 0) := by decide

theorem witness_IndexBaseAndProgramWrites : (0x1FFFF : Word).toNat < 131072 ∧ 131072 ≤ (0x20000 : Word).toNat := by decide

theorem witness_MoveParameterWrites : ((0x17 : Byte).toNat < 32 ∧ (0x17 : Byte).toNat / 8 % 2 = 0) ∧
    (32 ≤ (0x20 : Byte).toNat ∨ (0x20 : Byte).toNat / 8 % 2 = 1) ∧
    (32 ≤ (0x08 : Byte).toNat ∨ (0x08 : Byte).toNat / 8 % 2 = 1) := by decide

theorem witness_WriteFrameStoresItsBytes : (ready []).memoryModeSet ∧ (ready []).chip.busy = false ∧
    [(0xAA : Byte)] ≠ [] ∧ (0x1FFFF : BitVec 24).toNat + [(0xAA : Byte)].length ≤ 131072 :=
  ⟨⟨rfl, by decide⟩, rfl, by decide, by decide⟩

/-- Bytes that are written, and one that is not (B3.14). -/
theorem witness_ReadFrameAnswersTheBytes : (ready [(0x1FFFF, 0xAA)]).memoryModeSet ∧
    (ready [(0x1FFFF, 0xAA)]).chip.busy = false ∧ [(0 : Byte)] ≠ [] ∧
    (0x1FFFF : BitVec 24).toNat + [(0 : Byte)].length ≤ 131072 ∧
    (∀ i, i < [(0 : Byte)].length → (Memory.read [(0x1FFFF, 0xAA)] ((0x1FFFF : BitVec 24).toNat + i)).isSome) ∧
    ((0 : Nat) < [(0 : Byte), 0].length ∧
      Memory.read [(0x1FFFF, 0xAA)] ((0x1FFFE : BitVec 24).toNat + 0) = none ∧
      ∀ i, i < 0 → (Memory.read [(0x1FFFF, 0xAA)] ((0x1FFFE : BitVec 24).toNat + i)).isSome) :=
  ⟨⟨rfl, by decide⟩, rfl, by decide, by decide, by decide, by decide, by decide, by omega⟩

theorem witness_MemoryFrameChecksInOrder :
    State.reset.chip.mode ≠ some 1 ∧
    ((ready []).chip.mode = some 1 ∧
      ({ (ready []).chip with multiic := none } : Chip).multiic.map BitVec.toNat ≠ some (ready []).cfg.multiicOff) ∧
    ((moving 1).memoryModeSet ∧ (moving 1).chip.busy = true) ∧
    ((ready []).memoryModeSet ∧ (ready []).chip.busy = false ∧
      (131072 ≤ (0x20000 : BitVec 24).toNat ∨ 131072 < (0x20000 : BitVec 24).toNat + 1) ∧
      (131072 ≤ (0x1FFFF : BitVec 24).toNat ∨ 131072 < (0x1FFFF : BitVec 24).toNat + 2)) :=
  ⟨by decide, ⟨rfl, by decide⟩, ⟨⟨rfl, by decide⟩, rfl⟩, ⟨rfl, by decide⟩, rfl, by decide, by decide⟩

/-- A move from 8 to 0x10 (B3.45), and a descending one that ends at address 0. -/
theorem witness_MoveStartLatchesParameters :
    ((aimed 4 8 false false false 8).chip.busy = false ∧
      moveInside false 8 0x10 ((1 - 1) * 322 + (8 - 1)) ∧ Cfg.pal.bmMinWidth ≤ 8 ∧ 8 ≤ Cfg.pal.bmMaxWidth ∧
      ¬ overlapsByOne 8 0x10 1 322) ∧
    (moveInside true 7 0x1FFFF ((1 - 1) * 322 + (8 - 1)) ∧ ¬ overlapsByOne 7 0x1FFFF 1 322) := by
  refine ⟨⟨rfl, ?_, by decide, by decide, not_overlaps fun k => by omega⟩, ?_, not_overlaps fun k => by omega⟩ <;>
    simp [moveInside]

/-- One state for each fault of R213: B3.38, B3.31, B3.33, B3.42, B3.46, B3.43, B3.44. -/
theorem witness_MoveStartChecksInOrder :
    (moving 1).chip.busy = true ∧ State.reset.chip.bmc1 = none ∧
    (aimed 0 0 false false false 0).chip.bmc2 = some ⟨322, 0, 0⟩ ∧
    ¬ moveInside true 0 0 ((1 - 1) * 322 + (8 - 1)) ∧ ¬ moveInside false 0x1FFFE 0 ((1 - 1) * 322 + (8 - 1)) ∧
    3 < Cfg.pal.bmMinWidth ∧ Cfg.pal.bmMaxWidth < 251 ∧ overlapsByOne 8 (8 + 1) 1 322 := by
  refine ⟨rfl, rfl, rfl, ?_, ?_, by decide, by decide, overlaps_next 8 322⟩ <;> simp [moveInside]

/-- An ascending move that overlaps from above, and a descending one from below. -/
theorem witness_EngineOverlapLaw :
    (ActiveMove.fits ⟨2, 0, false, 4, 4, 2⟩ ∧ (4 : Byte).toNat ≤ (4 : Half).toNat ∧
      (0 : BitVec 17).toNat ≤ (2 : BitVec 17).toNat) ∧
    (ActiveMove.fits ⟨7, 9, true, 0, 8, 1⟩ ∧ (7 : BitVec 17).toNat ≤ (9 : BitVec 17).toNat) := by
  refine ⟨⟨?_, by decide, by decide⟩, ?_, by decide⟩ <;> unfold ActiveMove.fits <;> decide

theorem witness_IdleStepsCompleteTheMove :
    (moving 3).chip.busy = true ∧ (moving 3).inputs = [] ∧ (moving 3).hostResetIn = none := ⟨rfl, rfl, rfl⟩

/-- A frame that records a fault, and one that records none. -/
theorem witness_FaultsArePrecise : Instr.bmstart.isFrame = true ∧
    (∃ t, exec .bmstart State.reset = .next t ∧ t.faults = [⟨.bmParams, 0x36, none⟩]) ∧
    ∃ t, exec (.program 0) State.reset = .next t ∧ t.faults = [] := ⟨rfl, ⟨_, rfl, by decide⟩, ⟨_, rfl, by decide⟩⟩

theorem witness_InvalidConfigurationIsRefused : badConfig.cfg.valid = false ∧ Instr.isFrame .init = false ∧
    Instr.init ≠ .readStatus := by decide

theorem witness_AddressOpsAnswerTheFormulas : State.reset.cfg.valid = true ∧ 3 < State.reset.cfg.numProtolines ∧
    State.reset.cfg.numProtolines ≤ 4 ∧ 239 < State.reset.cfg.height ∧ State.reset.cfg.height ≤ 240 ∧
    319 < State.reset.cfg.width ∧ State.reset.cfg.width ≤ 320 ∧ badConfig.cfg.valid = false := by decide

theorem witness_OutOfRangeArgumentsAreRefused : State.reset.cfg.valid = true ∧ (131072 ≤ 131072 ∨ 256 ≤ 0) ∧
    (131072 ≤ 0 ∨ 256 ≤ 256) ∧ (65536 ≤ 65536 ∨ 65536 ≤ 0) ∧ State.reset.cfg.totalLines ≤ 313 ∧
    State.reset.cfg.numProtolines ≤ 4 ∧ 131072 < 0x1FEC1 + State.reset.cfg.width ∧
    State.reset.cfg.lineLen < 2261 + 10 := by decide

theorem witness_PixelOutsideThePictureIsCounted : State.reset.cfg.valid = true ∧ 255 < 256 ∧
    (State.reset.cfg.width ≤ 320 ∨ State.reset.cfg.height ≤ 0) ∧ (State.reset.cfg.width ≤ 0 ∨ State.reset.cfg.height ≤ 240) := by
  decide

theorem witness_ByteAndWordOpsStore : (moving 65535).hostReady ∧ 131071 < 131072 ∧ 255 < 256 ∧ 65535 < 65536 :=
  ⟨moving_hostReady, by decide, by decide, by decide⟩

theorem witness_IndexEntryOpStores : (moving 65535).hostReady ∧ 312 < (moving 65535).cfg.totalLines ∧
    3 < (moving 65535).cfg.numProtolines ∧ 0 < 1 ∧ 0x1FEC0 + (moving 65535).cfg.width ≤ 131072 :=
  ⟨moving_hostReady, by decide, by decide, by decide, by decide⟩

theorem witness_FillProtolineStoresCopies : (ready []).hostReady ∧ 3 < (ready []).cfg.numProtolines ∧ 65535 < 65536 ∧
    0 + 2270 ≤ (ready []).cfg.lineLen ∧ 2270 + 0 ≤ (ready []).cfg.lineLen := ⟨ready_hostReady [], by decide⟩

theorem witness_ColorBurstOpPaintsTheWindow : (ready []).hostReady ∧ 1 ≤ 1 ∧
    0x0D66 = (if 1 = 1 then (ready []).cfg.burstLevel else (ready []).cfg.blankLevel) ∧
    0x0066 = (if 0 = 1 then (ready []).cfg.burstLevel else (ready []).cfg.blankLevel) := ⟨ready_hostReady [], by decide⟩

theorem witness_PixelOpStoresItsColor : (moving 65535).hostReady ∧ 319 < (moving 65535).cfg.width ∧
    239 < (moving 65535).cfg.height ∧ 255 < 256 := ⟨moving_hostReady, by decide⟩

/-- Also `PixelWrittenIsPixelRead`, whose second pixel is another one. -/
theorem witness_ReadOpsReturnTheByte : (ready [(0x17879, 0x5A), (0x1FFFF, 0x5A)]).hostReady ∧ 131071 < 131072 ∧
    Memory.read (ready [(0x17879, 0x5A), (0x1FFFF, 0x5A)]).settledMem 131071 = some 0x5A ∧
    319 < Cfg.pal.width ∧ 239 < Cfg.pal.height ∧
    Memory.read (ready [(0x17879, 0x5A), (0x1FFFF, 0x5A)]).settledMem (Cfg.pal.pix 319 239) = some 0x5A :=
  ⟨ready_hostReady _, by decide⟩

theorem witness_PixelWrittenIsPixelRead : (moving 65535).hostReady ∧ 319 < (moving 65535).cfg.width ∧
    239 < (moving 65535).cfg.height ∧ 255 < 256 ∧ (0, 0) ≠ (319, 239) := ⟨moving_hostReady, by decide⟩

theorem witness_MemoryOpsBeforeInitRecordModeFaults : State.reset.cfg.valid = true ∧ State.reset.chip.mode = none ∧
    State.reset.chip.busy = false ∧ State.reset.chip.select = false ∧ State.reset.block.movePending = false ∧
    State.reset.hostResetIn = none ∧ State.reset.cfg.storesAt (.writeByte 0x1FFFF 255) 0x1FFFF ∧
    State.reset.cfg.storesAt (.writeWord 0xFFFF 0xFFFF) 0x1FFFE ∧
    State.reset.cfg.storesAt (.writeIndexEntry 312 0 3) 0x4A98 ∧
    State.reset.cfg.storesAt (.writeIndexEntry 312 1 0x1FEC0) 0x4A98 ∧
    State.reset.cfg.storesAt (.fillProtoline 3 2269 1 0xFFFF) 0x46EE ∧
    State.reset.cfg.storesAt (.writePixel 319 239 255) 0x17879 ∧ State.reset.cfg.readsAt (.readByte 0x1FFFF) 0x1FFFF ∧
    State.reset.cfg.readsAt (.readPixel 319 239) 0x17879 :=
  ⟨by decide, rfl, rfl, rfl, rfl, rfl, .inl ⟨_, rfl, by decide⟩, .inr (.inl ⟨_, _, rfl, by decide⟩),
    .inr (.inr (.inl ⟨_, _, _, rfl, by decide⟩)), .inr (.inr (.inl ⟨_, _, _, rfl, by decide⟩)),
    .inr (.inr (.inr (.inl ⟨_, _, _, _, rfl, by decide⟩))), .inr (.inr (.inr (.inr ⟨_, _, _, rfl, by decide⟩))),
    .inl ⟨rfl, by decide⟩, .inr ⟨_, _, rfl, by decide⟩⟩

theorem witness_WaitIdleEndsTheMove : (moving 65535).cfg.valid = true ∧ (moving 65535).waitEnds ∧
    (moving 65535).hostResetIn = none := ⟨by decide, fun _ => by decide, rfl⟩

/-- The widest and tallest move, which fills the SRAM to its end, and the narrowest. -/
theorem pal_acceptsMoves : Cfg.pal.acceptsMove 0 67072 250 256 250 ∧ Cfg.pal.acceptsMove 0x4BDE 0x4A9C 4 1 322 :=
  ⟨⟨by decide, by decide, by decide, by decide, by decide, by decide, by decide, by decide, not_overlaps fun k => by omega⟩,
    by decide, by decide, by decide, by decide, by decide, by decide, by decide, by decide, not_overlaps fun k => by omega⟩

/-- Two disjoint rectangles (not whole rows apart), a shift by a whole row, and a single row. -/
theorem pal_acceptsSplits : Cfg.pal.acceptsSplit 0 1000 320 2 322 ∧ Cfg.pal.acceptsSplit 0x4BDE 0x4A9C 320 239 322 ∧
    Cfg.pal.acceptsSplit 0 500 1001 1 0 :=
  ⟨⟨by decide, by decide, by decide, by decide, by decide, by decide, by decide, by decide,
      not_overlaps fun k => by omega, by decide⟩,
    ⟨by decide, by decide, by decide, by decide, by decide, by decide, by decide, by decide,
      not_overlaps fun k => by omega, by decide⟩,
    by decide, by decide, by decide, by decide, by decide, by decide, by decide, by decide,
      not_overlaps fun k => by omega, by decide⟩

/-- P7: a limit of two polls, and a move that stays busy for four frames more, which is just enough for a `BLIT` to time
out too. -/
theorem witness_TimeoutsLeaveTheMoveRunning :
    let s := { moving 4 with cfg := { Cfg.pal with busyPollLimit := some 2 } }
    (s.cfg.valid = true ∧ s.chip.busy = true ∧ s.cfg.busyPollLimit = some 2 ∧ 2 ≤ s.pollsLeft ∧ s.hostResetIn = none ∧
      s.block.movePending = true ∧ 2 + 2 ≤ s.delay) ∧
    s.cfg.storesAt (.writeByte 0x1FFFF 255) 0x1FFFF ∧ s.cfg.readsAt (.readByte 0x1FFFF) 0x1FFFF ∧
    s.cfg.acceptsMove 0x4BDE 0x4A9C 4 1 322 ∧ s.cfg.acceptsSplit 0 500 1001 1 0 :=
  ⟨by decide, .inl ⟨_, rfl, by decide⟩, .inl ⟨rfl, by decide⟩, pal_acceptsMoves.2, pal_acceptsSplits.2.2⟩

theorem witness_BlitMovesTheRectangle : (moving 3).cfg.valid = true ∧ (moving 3).waitEnds ∧
    (moving 3).hostResetIn = none ∧ (moving 3).cfg.acceptsMove 0 67072 250 256 250 ∧
    (moving 3).cfg.acceptsMove 0x4BDE 0x4A9C 4 1 322 :=
  ⟨by decide, fun _ => by decide, rfl, pal_acceptsMoves⟩

/-- The conditions of R420 in their order: B8.3, B8.8, B8.10, B8.11, B8.4, B8.9, B8.5. -/
theorem witness_BlitChecksInOrder : State.reset.cfg.valid = true ∧ (0 = 0 ∨ 5 = 0) ∧
    256 < 257 ∧ 65535 < 65536 ∧ (1 < 2 ∧ 4 < 8) ∧ 131072 < 0x1FFF8 + (1 - 1) * 0 + 9 ∧
    3 < State.reset.cfg.bmMinWidth ∧ State.reset.cfg.bmMaxWidth < 251 ∧ overlapsByOne 0x4A9C (0x4A9C + 1) 1 322 :=
  ⟨by decide, by decide, by decide, by decide, by decide, by decide, by decide, by decide, overlaps_next _ _⟩

/-- With a bound on the busy polls below the limit of a wait. -/
theorem witness_BlitSplitMovesTheRectangle :
    let s := { ready [] with cfg := { Cfg.pal with enginePollBound := some 65535 } }
    s.cfg.valid = true ∧ s.cfg.pollsSuffice ∧ s.hostResetIn = none ∧
    (s.cfg.acceptsSplit 0 1000 320 2 322 ∧ ∀ r c r' c' : Nat, r < 2 → c < 320 → r' < 2 → c' < 320 →
      0 + r * 322 + c ≠ 1000 + r' * 322 + c') ∧
    (s.cfg.acceptsSplit 0x4BDE 0x4A9C 320 239 322 ∧ ((0x4A9C : Nat) : Int) - (0x4BDE : Nat) = (-1) * (322 : Nat)) ∧
    s.cfg.acceptsSplit 0 500 1001 1 0 := by
  refine ⟨by decide, ?_, rfl, ⟨pal_acceptsSplits.1, fun r c r' c' _ _ _ _ => by omega⟩,
    ⟨pal_acceptsSplits.2.1, by norm_num⟩, pal_acceptsSplits.2.2⟩
  simp [Cfg.pollsSuffice, Cfg.pal]

/-- The conditions of R426 in their order, the last of them with a smallest width of 130, and a call that passes. -/
theorem witness_BlitSplitChecksInOrder : State.reset.cfg.valid = true ∧ 256 < 257 ∧ 3 < State.reset.cfg.bmMinWidth ∧
    overlapsByOne 0x4A9C (0x4A9C + 1) 1 322 ∧
    (Cfg.valid { Cfg.pal with bmMinWidth := 130 } = true ∧ 130 ≤ 251 ∧ 251 / ((251 + 250 - 1) / 250) < 130) ∧
    State.reset.cfg.acceptsSplit 0x4BDE 0x4A9C 320 239 322 :=
  ⟨by decide, by decide, by decide, overlaps_next _ _, by decide, pal_acceptsSplits.2.1⟩

/-- For every statement about `INIT`: from reset, and with a move running. -/
theorem witness_InitProgramsTheChip :
    (State.reset.cfg.valid = true ∧ State.reset.drains ∧ State.reset.hostResetIn = none ∧
      Memory.wf State.reset.chip.mem) ∧
    ((moving 65535).cfg = State.reset.cfg ∧ (moving 65535).drains ∧ (moving 65535).hostResetIn = none ∧
      Memory.wf (moving 65535).chip.mem) :=
  ⟨⟨by decide, .inl ⟨rfl, rfl⟩, rfl, by decide⟩, rfl, .inr ⟨rfl, fun _ => by decide⟩, rfl, by decide⟩

theorem witness_InitBuildsTheIndexTable : 312 < Cfg.pal.totalLines ∧ 2 < 3 := by decide

theorem witness_InitBuildsTheProtolines : 3 < Cfg.pal.numProtolines ∧ 2269 < Cfg.pal.lineLen ∧
    Cfg.pal.indexEnd ≤ 131071 ∧ 131071 < 131072 := by decide

theorem witness_InitShowsTheBlankPicture : 312 < Cfg.pal.totalLines ∧ 2269 < Cfg.pal.lineLen ∧
    (Cfg.pal.firstPicLine ≤ 275 ∧ 275 < Cfg.pal.firstPicLine + Cfg.pal.height) := by decide

theorem witness_InitEndsInTheSameChip : (moving 65535).cfg = State.reset.cfg ∧ State.reset.drains ∧
    (moving 65535).drains := ⟨rfl, .inl ⟨rfl, rfl⟩, .inr ⟨rfl, fun _ => by decide⟩⟩

/-- A picture of one row, its video registers programmed and its index entry written. -/
def oneRow : State :=
  let c : Cfg := { Cfg.pal with height := 1 }
  { State.resetWith c with
    chip := { Chip.reset with
      mode := some 1
      multiic := some 0x0F
      picstart := some (BitVec.ofNat 12 c.picStart)
      picend := some (BitVec.ofNat 12 c.picEnd)
      linelen := some (BitVec.ofNat 12 c.lineLen)
      vdctrl1 := some ⟨true, true⟩
      indexstart := some (BitVec.ofNat 17 c.indexStart)
      enable := true
      videoForm := some ⟨BitVec.ofNat 10 c.totalLines, BitVec.ofNat 4 c.pixelClks, true⟩
      program := some (BitVec.ofNat 32 c.programWord)
      mem := Memory.cells (c.entryAddr c.firstPicLine) (encPic (c.row 0)) } }

theorem witness_PixelWrittenIsPixelShown : oneRow.hostReady ∧ oneRow.displaysPicture ∧ 319 < oneRow.cfg.width ∧
    0 < oneRow.cfg.height ∧ 255 < 256 ∧ 4 < oneRow.cfg.pixelClks := by
  refine ⟨⟨by decide, ⟨rfl, by decide⟩, .inl ⟨rfl, rfl⟩, rfl⟩, ⟨by decide, fun y i hy hi => ?_⟩, by decide⟩
  have h1 : y < 1 := hy
  interval_cases y
  interval_cases i <;> decide

theorem witness_FirstErrorIsSticky : Instr.isFrame (.writePixel 0 0 256) = false ∧ (ready []).hostResetIn = none ∧
    ∃ t, exec (.writePixel 0 0 256) (ready []) = .next t ∧ t.block.firstErr = .range := ⟨rfl, rfl, _, rfl, by decide⟩

theorem witness_HostOpIsTheFramesItSends : Instr.isFrame (.writeByte 0 1) = false ∧
    ∃ t, exec (.writeByte 0 1) (ready []) = .next t ∧ t.sent = [[0x02, 0, 0, 0, 1]] := ⟨rfl, _, rfl, by decide⟩

/-- The reset strikes before the only frame, and after it. -/
theorem witness_HostResetCutsAnOperation :
    (∃ s : State, s.hostResetIn ≠ some 0 ∧ s.inputs = [.hostReset 0]) ∧
    (∃ u t, exec (.writeByte 0 1) (ready []) = .next u ∧ exec (.writeByte 0 1) { ready [] with hostResetIn := some 0 } =
      .next t ∧ 0 < u.sent.length) ∧
    ∃ u t, exec (.writeByte 0 1) (ready []) = .next u ∧ exec (.writeByte 0 1) { ready [] with hostResetIn := some 1 } =
      .next t ∧ ¬ 1 < u.sent.length :=
  ⟨⟨{ State.reset with inputs := [.hostReset 0] }, by decide, rfl⟩, ⟨_, _, rfl, rfl, by decide⟩, _, _, rfl, rfl, by decide⟩

theorem witness_StepKeepsTheInvariant : (moving 1).inv ∧ ∃ t, step (moving 1) = .next t := by
  refine ⟨⟨by decide, rfl, .inr rfl, .inr (by decide), fun _ => ⟨move8, rfl, ?_⟩, fun k hk => ?_, List.nodup_nil⟩, _, rfl⟩
  · unfold ActiveMove.fits; decide
  · simp [moving, aimed, ready, State.reset, State.resetWith, Cfg.pal] at hk

theorem witness_StepKeepsConfigurationAndFaults :
    ∃ t, step { State.reset with faults := [⟨.addr, 2, some 0x20000⟩] } = .next t ∧
      t.faults = [⟨.addr, 2, some 0x20000⟩] := ⟨_, rfl, by decide⟩

/-- The state after `INIT`, as far as these rules speak of it: every byte written. -/
def filled : State := ready (Memory.write [] 0 (List.replicate 131072 0))

theorem read_zeros {n a : Nat} (h : a < n) : (Memory.read (Memory.write [] 0 (List.replicate n 0)) a).isSome := by
  rw [Memory.read_write, List.length_replicate, if_pos ⟨Nat.zero_le a, by omega⟩, List.getElem?_replicate,
    if_pos (by omega)]
  rfl

theorem witness_InitialisedHostOpsRaiseNoFault : filled.initialised ∧ filled.hostResetIn = none ∧
    ∃ t, exec .readStatus filled = .next t :=
  ⟨⟨test_pal_is_valid, ⟨rfl, rfl⟩, fun _ ha => read_zeros ha, fun h => nomatch (h : false = true)⟩, rfl, _, rfl⟩

theorem witness_HostOpsNeverTouchBusyMemory : ((moving 1).chip.busy = true → (moving 1).block.movePending = true) ∧
    (moving 1).hostResetIn = none ∧ ∃ t, exec (.pixelAddress 0 0) (moving 1) = .next t :=
  ⟨fun _ => rfl, rfl, _, rfl⟩

theorem witness_OnlyMovesSetBusy : ∃ t, exec .bmstart (aimed 4 8 false false false 8) = .next t ∧
    (aimed 4 8 false false false 8).chip.busy = false ∧ t.chip.busy = true := ⟨_, rfl, rfl, by decide⟩

theorem witness_ResetLeavesTheTablesValues : ({ moving 1 with inputs := [.powerOn] } : State).hostResetIn ≠ some 0 ∧
    ({ moving 1 with inputs := [.powerOn] } : State).inputs = .powerOn :: [] := by decide

theorem witness_DecodeOfEncode : OpMap.reference.injective = true ∧ (Instr.write 0x1FFFF [0xAA]).wellFormed = true := by
  decide

theorem witness_EncodeOfDecode : decode OpMap.reference (.frame [0x36]) = .instr .bmstart ∧
    decode OpMap.reference (.call 0x0B [7]) = .instr (.readByte 7) := by decide

/-- A `WRITE` of one byte, one of none, and a `BMSTART` of two bytes. -/
theorem witness_FrameLengthsAllowed : OpMap.reference.injective = true ∧
    5 = ([0, 0, 0, 0x55] : List Byte).length + 1 ∧ 4 = ([0, 0, 0] : List Byte).length + 1 ∧
    2 = ([0] : List Byte).length + 1 := by decide

theorem witness_UndefinedEncodingsAreRefused : State.reset.hostResetIn ≠ some 0 ∧
    (∀ c, State.reset.cfg.opmap.code c ≠ 0x37) ∧ 16 ≤ 16 :=
  ⟨by decide, fun c => by cases c <;> decide, by decide⟩

theorem witness_StepRunsTheDecodedInstruction : State.reset.hostResetIn ≠ some 0 ∧
    decode State.reset.cfg.opmap (.frame [0x36]) = .instr .bmstart ∧
    decode State.reset.cfg.opmap (.call 0x0F []) = .instr .readStatus := by decide

theorem witness_EndSlotStopsTheProgram : 1 < 4 ∧ (∀ j, j ≤ 1 → microOp 0x000003FC j = microOp 0xFFFF03FC j) ∧
    opPlane (microOp 0x000003FC 1) = 3 :=
  ⟨by decide, fun j hj => by interval_cases j <;> decide, by decide⟩

theorem witness_IndexEntriesDecode : 15 < 16 ∧ 0 < 1 ∧ 131071 < 131072 := by decide

theorem witness_RegionsAreDisjoint : Cfg.pal.valid = true ∧ 0 < 1 ∧ 3 < Cfg.pal.numProtolines ∧
    312 < Cfg.pal.totalLines ∧ 319 < Cfg.pal.width ∧ 239 < Cfg.pal.height := by decide

end Sys2Proof.Machine.Tests
end

/-! SUPPORT. Proofs for the statements of spec/00_scope.md: a host op is the frames it sends (R4, R102), and no step
changes the configuration or removes a fault entry, but for a power-on (R8, R55). -/

namespace Sys2Proof.Machine

/-! ## The chip layer and the frames sent -/

theorem SameChipLayer.refl (s : State) : SameChipLayer s s := ⟨rfl, rfl, rfl, rfl, rfl, rfl, rfl⟩

theorem SameChipLayer.trans {s t u : State} (hst : SameChipLayer s t) (htu : SameChipLayer t u) :
    SameChipLayer s u := by
  obtain ⟨c1, g1, f1, d1, m1, l1, p1⟩ := hst
  obtain ⟨c2, g2, f2, d2, m2, l2, p2⟩ := htu
  exact ⟨c2.trans c1, g2.trans g1, f2.trans f1, d2.trans d1, m2.trans m1, l2.trans l1, p2.trans p1⟩

@[simp] theorem State.replay_nil (s : State) : s.replay [] = s := rfl

theorem State.replay_append (s : State) (fs gs : List (List Byte)) : s.replay (fs ++ gs) = (s.replay fs).replay gs :=
  List.foldl_append ..

/-- The frames noted as sent between the two states are all that the chip layer has seen between them. -/
def ReplaysSent (s t : State) : Prop := ∃ fs, t.sent = s.sent ++ fs ∧ SameChipLayer (s.replay fs) t

/-- A change that sends nothing and leaves the chip layer alone. -/
theorem ReplaysSent.of_sameChipLayer {s t : State} (hs : t.sent = s.sent) (h : SameChipLayer s t) : ReplaysSent s t :=
  ⟨[], by simpa using hs, h⟩

theorem ReplaysSent.trans {s t u : State} (hst : ReplaysSent s t) (htu : ReplaysSent t u) : ReplaysSent s u := by
  obtain ⟨fs, hfs, hs⟩ := hst
  obtain ⟨gs, hgs, ht⟩ := htu
  refine ⟨fs ++ gs, by rw [hgs, hfs, List.append_assoc], ?_⟩
  rw [State.replay_append]
  exact (hs.replay gs).trans ht

/-- Noting a frame as sent is all that sending it does beyond what the chip layer does with it (R161, R190). -/
theorem ReplaysSent.sendFrame (s : State) (bytes : List Byte) : ReplaysSent s (s.sendFrame bytes) := by
  obtain ⟨-, -, hsent, -, -, -⟩ := s.sendFrame_host bytes
  exact ⟨[bytes], hsent, SameChipLayer.refl _⟩

/-- Every part of a host op reaches the chip layer by the frames it sends alone (R4). -/
theorem ReplaysSent.hostRelation : HostRelation ReplaysSent where
  refl s := .of_sameChipLayer rfl (.refl s)
  trans := .trans
  send s _ _ := .sendFrame s _
  fail s _ := .of_sameChipLayer rfl (.refl s)
  pending s _ := .of_sameChipLayer rfl (.refl s)
  burst s _ := .of_sameChipLayer rfl (.refl s)
  clip s := .of_sameChipLayer rfl (.refl s)

/-- Handing back a result, or a `HOST_RESET`, is no more to the chip layer and sends nothing (R133, R501). -/
theorem exec_host_last {i : Instr} {s t : State} (hi : i.isFrame = false) (h : exec i s = .next t) :
    ∃ r, s.beginOp.hostRun i = some r ∧ SameChipLayer r.last t ∧ t.sent = r.last.sent := by
  obtain ⟨r, hrun, ⟨q, hq, -⟩ | ⟨u, rfl, hu⟩⟩ := exec_host hi s
  · obtain rfl := Host.Outcome.next.inj (hq.symm.trans h)
    exact ⟨r, hrun, .refl _, rfl⟩
  · obtain rfl := Host.Outcome.next.inj (hu.symm.trans h)
    exact ⟨_, hrun, .refl _, rfl⟩

/-- After a host op, cut short or not, the chip layer is the one that its sent frames make (R4, R102, R501). -/
theorem exec_replay_sent {i : Instr} {s t : State} (hi : i.isFrame = false) (h : exec i s = .next t) :
    SameChipLayer (s.replay t.sent) t := by
  obtain ⟨r, hrun, hlast, hsent⟩ := exec_host_last hi h
  obtain ⟨fs, hfs, hchip⟩ := ReplaysSent.hostRelation.hostRun hrun
  have hstart : SameChipLayer s s.beginOp := .refl s
  rw [hsent, hfs, State.beginOp_sent, List.nil_append]
  exact ((hstart.replay fs).trans hchip).trans hlast

/-- Settles O42: the relation `ReplaysSent` holds along every host op. -/
theorem hostOpIsTheFramesItSends : Obligations.HostOpIsTheFramesItSends := by
  intro i s t hi h
  obtain ⟨hchip, -, hfaults, -⟩ := exec_replay_sent hi h
  exact ⟨hchip, hfaults⟩

/-! ## The configuration and the fault record -/

/-- The configuration is unchanged, and no entry is gone from the fault record (R8, R54, R55). -/
def State.keepsRecord (s t : State) : Prop := t.cfg = s.cfg ∧ s.faults ⊆ t.faults

theorem State.keepsRecord_of_eq (s : State) {t : State} (hc : t.cfg = s.cfg) (hf : t.faults = s.faults) :
    s.keepsRecord t :=
  ⟨hc, hf ▸ List.Subset.refl _⟩

theorem State.keepsRecord_refl (s : State) : s.keepsRecord s := s.keepsRecord_of_eq rfl rfl

theorem State.keepsRecord.trans {s t u : State} (hst : s.keepsRecord t) (htu : t.keepsRecord u) : s.keepsRecord u :=
  ⟨htu.1.trans hst.1, List.Subset.trans hst.2 htu.2⟩

theorem State.raise_faults_subset (s : State) (f : ChipFault) (b0 : Byte) (a : Option Nat) :
    s.faults ⊆ (s.raise f b0 a).faults := by
  rw [State.raise_faults]
  split
  · exact List.Subset.refl _
  · exact List.subset_append_left _ _

/-- One frame's effect on the fault record: none, or the entry of one fault (R190, R467, R469). -/
def State.faultsOnce (s t : State) : Prop := t.faults = s.faults ∨ ∃ f b0 a, t.faults = (s.raise f b0 a).faults

theorem State.registerFrame_faultsOnce (s : State) (n : Nat) (c : Cmd) (f : Option ChipFault) (w : Chip) :
    s.faultsOnce (s.registerFrame n c f w) := by
  cases f with
  | none => exact .inl rfl
  | some f => exact .inr ⟨f, _, _, rfl⟩

theorem State.portWrite_faultsOnce (s : State) (a : BitVec 24) (data : List Byte) :
    s.faultsOnce (s.portWrite a data) := by
  unfold State.portWrite
  split
  · exact .inr ⟨_, _, _, rfl⟩
  · split
    · exact .inr ⟨_, _, _, rfl⟩
    · exact .inl rfl

theorem State.portRead_faultsOnce (s : State) (a : BitVec 24) (filler : List Byte) :
    s.faultsOnce (s.portRead a filler) := by
  unfold State.portRead
  split
  · exact .inr ⟨_, _, _, rfl⟩
  · split
    · exact .inr ⟨_, _, _, rfl⟩
    · split
      · exact .inr ⟨_, _, _, rfl⟩
      · exact .inl rfl

theorem State.portBmstart_faultsOnce (s : State) : s.faultsOnce s.portBmstart := by
  unfold State.portBmstart
  split
  · exact .inr ⟨_, _, _, rfl⟩
  · exact .inl rfl

theorem State.portInstr_faultsOnce (s : State) (i : Instr) : s.faultsOnce (s.portInstr i) := by
  cases i with
  | write a data => exact s.portWrite_faultsOnce a data
  | read a filler => exact s.portRead_faultsOnce a filler
  | bmstart => exact s.portBmstart_faultsOnce
  | multiic | wrsr | picstart | picend | linelen | vdctrl1 | indexstart | vdctrl2 | program | bmc1 | bmc2 =>
    exact s.registerFrame_faultsOnce _ _ _ _
  | _ => exact .inl rfl

theorem State.rejectFrame_faultsOnce (s : State) (f : ChipFault) (b0 : Byte) (payload : List Byte) :
    s.faultsOnce (s.rejectFrame f b0 payload) := .inr ⟨_, _, _, rfl⟩

theorem State.portFrame_faultsOnce (s : State) (bytes : List Byte) : s.faultsOnce (s.portFrame bytes) := by
  unfold State.portFrame
  split
  · exact s.portInstr_faultsOnce _
  · exact s.rejectFrame_faultsOnce _ _ _
  · exact s.rejectFrame_faultsOnce _ _ _
  all_goals exact .inl rfl

theorem State.keepsRecord_of_faultsOnce (s : State) {t : State} (hc : t.cfg = s.cfg) (h : s.faultsOnce t) :
    s.keepsRecord t := by
  refine ⟨hc, ?_⟩
  rcases h with hf | ⟨f, b0, a, hf⟩
  · exact hf ▸ List.Subset.refl _
  · exact hf ▸ s.raise_faults_subset f b0 a

theorem State.portInstr_keepsRecord (s : State) (i : Instr) : s.keepsRecord (s.portInstr i) :=
  s.keepsRecord_of_faultsOnce (s.portInstr_sameHost i).1 (s.portInstr_faultsOnce i)

theorem State.portFrame_keepsRecord (s : State) (bytes : List Byte) : s.keepsRecord (s.portFrame bytes) :=
  s.keepsRecord_of_faultsOnce (s.portFrame_sameHost bytes).1 (s.portFrame_faultsOnce bytes)

theorem State.rejectFrame_keepsRecord (s : State) (f : ChipFault) (b0 : Byte) (payload : List Byte) :
    s.keepsRecord (s.rejectFrame f b0 payload) :=
  s.keepsRecord_of_faultsOnce rfl (s.rejectFrame_faultsOnce f b0 payload)

theorem State.transfer_keepsRecord (s : State) (bytes : List Byte) : s.keepsRecord (s.transfer bytes) := by
  obtain ⟨hc, -, -, -, -, hf, -, -⟩ := s.transfer_host bytes
  exact s.keepsRecord_of_eq hc hf

theorem State.sendFrame_keepsRecord (s : State) (bytes : List Byte) : s.keepsRecord (s.sendFrame bytes) :=
  (s.transfer_keepsRecord bytes).trans ((s.transfer bytes).portFrame_keepsRecord bytes)

theorem State.engineGap_keepsRecord (s : State) (statusNext : Bool) : s.keepsRecord (s.engineGap statusNext) := by
  rcases s.engineGap_cases statusNext with ⟨-, h⟩ | ⟨-, -, h⟩ | ⟨-, -, -, h⟩ <;> rw [h] <;>
    exact s.keepsRecord_of_eq rfl rfl

theorem State.keepsRecord_hostRelation : HostRelation State.keepsRecord where
  refl := State.keepsRecord_refl
  trans := .trans
  send s _ _ := s.sendFrame_keepsRecord _
  fail s _ := s.keepsRecord_of_eq rfl rfl
  pending s _ := s.keepsRecord_of_eq rfl rfl
  burst s _ := s.keepsRecord_of_eq rfl rfl
  clip s := s.keepsRecord_of_eq rfl rfl

/-- The meaning of a chip command is the port's step for it (R190). -/
theorem exec_frame {i : Instr} (hi : i.isFrame = true) (s : State) : exec i s = .next (s.portInstr i) := by
  cases i <;> first | rfl | exact absurd hi Bool.false_ne_true

theorem exec_keepsRecord {i : Instr} {s t : State} (h : exec i s = .next t) : s.keepsRecord t := by
  cases hi : i.isFrame with
  | true =>
    obtain rfl := Host.Outcome.next.inj ((exec_frame hi s).symm.trans h)
    exact s.portInstr_keepsRecord i
  | false =>
    obtain ⟨r, hrun, ⟨-, hcfg, hfaults, -⟩, -⟩ := exec_host_last hi h
    have start : s.keepsRecord s.beginOp := s.keepsRecord_of_eq rfl rfl
    have run : s.beginOp.keepsRecord r.last := State.keepsRecord_hostRelation.hostRun hrun
    exact (start.trans run).trans (r.last.keepsRecord_of_eq hcfg hfaults)

/-! ## What a step takes next -/

/-- The state in which a taken instruction is run, or with which the step is over. -/
def Fetched.state? : Fetched → Option State
  | .run _ s | .settled s => some s
  | .fault _ | .refused _ => none

/-- A step ends with the state of what it takes, or with what an instruction makes of that state. -/
theorem step_fetched {s t : State} (h : step s = .next t) :
    ∃ u, s.fetch.state? = some u ∧ (t = u ∨ ∃ i, exec i u = .next t) := by
  unfold step at h
  cases hf : s.fetch with
  | run i u => exact ⟨u, rfl, .inr ⟨i, by simpa [hf] using h⟩⟩
  | settled u => exact ⟨u, rfl, .inl (by simpa [hf] using h.symm)⟩
  | fault r => simp [hf] at h
  | refused r => simp [hf] at h

/-- A request keeps the record until its instruction is run (R161, R190–R192). -/
theorem State.fetchRequest_keepsRecord {s u : State} {r : Request} (h : (s.fetchRequest r).state? = some u) :
    s.keepsRecord u := by
  cases r with
  | frame bytes =>
    have reject : ∀ f b0, s.keepsRecord ((s.transfer bytes).rejectFrame f b0 bytes.tail) := fun f b0 =>
      (s.transfer_keepsRecord bytes).trans (State.rejectFrame_keepsRecord _ f b0 _)
    unfold State.fetchRequest at h
    dsimp only at h
    split at h <;> obtain rfl := Option.some.inj h
    · exact s.transfer_keepsRecord bytes
    · exact reject _ _
    · exact reject _ _
    all_goals exact s.keepsRecord_refl
  | call code args =>
    unfold State.fetchRequest at h
    dsimp only at h
    split at h <;> cases h <;> exact s.keepsRecord_refl

/-- What a step takes leaves the configuration, and but for a power-on the fault record too (R500, R501). -/
theorem State.fetch_keepsRecord {s u : State} (h : s.fetch.state? = some u) :
    s.keepsRecord u ∨ ∃ rest, s.inputs = .powerOn :: rest ∧ u = State.powerOn { s with inputs := rest } := by
  unfold State.fetch at h
  split at h
  · obtain rfl := Option.some.inj h
    exact .inl (s.keepsRecord_of_eq rfl rfl)
  · split at h
    · obtain rfl := Option.some.inj h
      exact .inl (s.engineGap_keepsRecord false)
    · rename_i r rest hin
      have taken : s.keepsRecord { s with inputs := rest } := s.keepsRecord_of_eq rfl rfl
      exact .inl (taken.trans (State.fetchRequest_keepsRecord h))
    · obtain rfl := Option.some.inj h
      exact .inl (s.keepsRecord_of_eq rfl rfl)
    · obtain rfl := Option.some.inj h
      exact .inl (s.keepsRecord_of_eq rfl rfl)
    · obtain rfl := Option.some.inj h
      exact .inr ⟨_, ‹_›, rfl⟩

/-- A step keeps the record, or it is a power-on. -/
theorem step_keepsRecord {s t : State} (h : step s = .next t) :
    s.keepsRecord t ∨ ∃ rest, s.inputs = .powerOn :: rest ∧ t.cfg = s.cfg := by
  obtain ⟨u, hu, hrun⟩ := step_fetched h
  have hut : u.keepsRecord t := by
    rcases hrun with rfl | ⟨i, hi⟩
    · exact State.keepsRecord_refl _
    · exact exec_keepsRecord hi
  rcases State.fetch_keepsRecord hu with hsu | ⟨rest, hin, rfl⟩
  · exact .inl (hsu.trans hut)
  · exact .inr ⟨rest, hin, hut.1⟩

/-- Settles O46: a step takes its next input and runs it, and both keep the record. -/
theorem stepKeepsConfigurationAndFaults : Obligations.StepKeepsConfigurationAndFaults := by
  intro s t h
  rcases step_keepsRecord h with ⟨hc, hf⟩ | ⟨rest, hin, hc⟩
  · exact ⟨hc, fun _ _ he => hf he⟩
  · exact ⟨hc, fun hno => absurd hin (hno rest)⟩

end Sys2Proof.Machine

/-! SUPPORT. Proofs for the statements of spec/10_state.md: nothing but a `BMSTART` frame sets `BUSY` (R47, R56). -/

namespace Sys2Proof.Machine

/-! ## The port sets `BUSY` for a `BMSTART` frame alone -/

/-- The instructions that send a `BMSTART` frame (R47, R420, R426). -/
def startsMove : Instr → Bool
  | .bmstart | .blit _ _ _ _ _ | .blitSplit _ _ _ _ _ => true
  | _ => false

theorem startsMove_iff (i : Instr) :
    startsMove i = true ↔
      i = .bmstart ∨ (∃ src dst w h stride, i = .blit src dst w h stride) ∨
        ∃ src dst w h stride, i = .blitSplit src dst w h stride := by
  cases i <;> simp [startsMove]

/-- A register frame leaves `BUSY` as the registers it writes have it (R199). -/
theorem State.registerFrame_busy (s : State) (n : Nat) (c : Cmd) (f : Option ChipFault) {w : Chip}
    (hw : w.busy = s.chip.busy) : (s.registerFrame n c f w).chip.busy = s.chip.busy := by
  cases f with
  | none => exact hw
  | some f => rfl

theorem State.portWrite_busy (s : State) (a : BitVec 24) (data : List Byte) :
    (s.portWrite a data).chip.busy = s.chip.busy := by
  unfold State.portWrite
  split
  · rfl
  · split <;> rfl

theorem State.portRead_busy (s : State) (a : BitVec 24) (filler : List Byte) :
    (s.portRead a filler).chip.busy = s.chip.busy := by
  unfold State.portRead
  split
  · rfl
  · split
    · rfl
    · split <;> rfl

/-- No command but `BMSTART` changes `BUSY` at the port (R47). -/
theorem State.portInstr_busy (s : State) {i : Instr} (hi : i ≠ .bmstart) :
    (s.portInstr i).chip.busy = s.chip.busy := by
  cases i with
  | bmstart => exact absurd rfl hi
  | write a data => exact s.portWrite_busy a data
  | read a filler => exact s.portRead_busy a filler
  | multiic | wrsr | picstart | picend | linelen | vdctrl1 | indexstart | vdctrl2 | program | bmc1 | bmc2 =>
    exact s.registerFrame_busy _ _ _ rfl
  | _ => rfl

/-- Only the format of no payload byte makes a `BMSTART` (R122–R129). The case split is by length: no format looks at
more than five bytes. -/
theorem payload_of_frameInstr_bmstart {c : Cmd} {payload : List Byte} (h : frameInstr c payload = some .bmstart) :
    payload = [] := by
  rcases payload with - | ⟨b1, - | ⟨b2, - | ⟨b3, - | ⟨b4, - | ⟨b5, - | ⟨b6, rest⟩⟩⟩⟩⟩⟩
  · rfl
  all_goals cases c <;> cases h

/-- A frame that decodes to `BMSTART` is its opcode byte alone (R191). -/
theorem length_of_decodeFrame_bmstart {m : OpMap} {bytes : List Byte} (h : decodeFrame m bytes = .instr .bmstart) :
    bytes.length = 1 := by
  unfold decodeFrame at h
  split at h
  · cases h
  · split at h
    · cases h
    · split at h
      · rename_i hf
        rw [Decoded.instr.inj h] at hf
        simp [payload_of_frameInstr_bmstart hf]
      · cases h

theorem State.portFrame_busy (s : State) {bytes : List Byte} (hb : bytes.length ≠ 1) :
    (s.portFrame bytes).chip.busy = s.chip.busy := by
  unfold State.portFrame
  split
  · rename_i i hd
    exact s.portInstr_busy fun hi => hb (length_of_decodeFrame_bmstart (hi ▸ hd))
  all_goals rfl

/-- With any opcode map, also one that gives a command the byte of `BMSTART`, the length tells the frames apart
(R191). -/
theorem frameBytes_length_ne_one (m : OpMap) {i : Instr} (hi : i ≠ .bmstart) : (frameBytes m i).length ≠ 1 := by
  cases i with
  | bmstart => exact absurd rfl hi
  | _ => simp [frameBytes, encode, addr24, bytes16, bytes32]

/-! ## Host ops that leave an idle engine idle -/

/-- A part of a host op ends with no move running. -/
def Run.endsIdle {α : Type} (r : Run α) : Prop := r.last.chip.busy = false

theorem State.sendFrame_idle {s : State} (hs : s.chip.busy = false) {i : Instr} (hi : i ≠ .bmstart) :
    (s.sendFrame (frameBytes s.cfg.opmap i)).chip.busy = false := by
  have hport := (s.transfer (frameBytes s.cfg.opmap i)).portFrame_busy (frameBytes_length_ne_one s.cfg.opmap hi)
  have htransfer : (s.transfer (frameBytes s.cfg.opmap i)).chip.busy = false := by
    rw [State.transfer_idle hs]
    exact hs
  exact hport.trans htransfer

namespace Run.endsIdle

theorem andThen {α β : Type} {r : Run α} {k : α → State → Run β} (hr : r.endsIdle)
    (hk : ∀ a t, t.chip.busy = false → (k a t).endsIdle) : (r.andThen k).endsIdle := by
  cases r with
  | ok a t => exact hk a t hr
  | err e t => exact hr
  | cut t => exact hr

variable {s : State} (hs : s.chip.busy = false)
include hs

theorem ok {α : Type} (a : α) : (Run.ok a s).endsIdle := hs

theorem failRun {α : Type} (e : Err) : (s.failRun e : Run α).endsIdle := hs

/-- A check of a host op, which fails or goes on. -/
theorem check {α : Type} {c : Prop} [Decidable c] {e : Err} {r : Run α} (hr : r.endsIdle) :
    (if c then s.failRun e else r).endsIdle := by
  split
  · exact failRun hs e
  · exact hr

theorem emit {i : Instr} (hi : i ≠ .bmstart) : (s.emit i).endsIdle := by
  by_cases h : s.hostResetIn = some 0
  · rw [State.emit_cut h]
    exact hs
  · rw [State.emit_eq h]
    exact State.sendFrame_idle hs hi

theorem emitAll {is : List Instr} (h : .bmstart ∉ is) : (State.emitAll is s).endsIdle := by
  induction is generalizing s with
  | nil => exact hs
  | cons i is ih =>
    have hi : i ≠ .bmstart := (List.ne_of_not_mem_cons h).symm
    exact (emit hs hi).andThen fun _ t ht => ih ht (List.not_mem_of_not_mem_cons h)

theorem pollLoop (n : Nat) : (State.pollLoop n s).endsIdle := by
  induction n generalizing s with
  | zero => exact failRun hs _
  | succ n ih =>
    refine (emit hs (i := statusFrame) nofun).andThen fun r t ht => ?_
    split
    · exact ih ht
    · exact ht

theorem drain : s.drain.endsIdle := by
  unfold State.drain
  split
  · exact pollLoop hs _
  · exact hs

theorem drainAndSend {i : Instr} (hi : i ≠ .bmstart) : (s.drainAndSend i).endsIdle :=
  (drain hs).andThen fun _ _ ht => (emit ht hi).andThen fun _ _ hu => hu

theorem drainAndRead (a : Nat) : (s.drainAndRead a).endsIdle :=
  (drain hs).andThen fun _ _ ht => (emit ht (i := readByteFrame a) nofun).andThen fun _ _ hu => hu

end Run.endsIdle

@[simp] theorem bmstart_ne_fillFrame (a count v : Nat) : .bmstart ≠ fillFrame a count v := nofun
@[simp] theorem bmstart_ne_zeroFrame (a count : Nat) : .bmstart ≠ zeroFrame a count := nofun
@[simp] theorem entryFrame_ne_bmstart (a : Nat) (e : List Byte) : entryFrame a e ≠ .bmstart := nofun
@[simp] theorem bmstart_ne_burstFrame (c : Cfg) (on : Bool) : .bmstart ≠ burstFrame c on := nofun

/-- `INIT` sends no `BMSTART` (R381–R385). -/
theorem bmstart_not_mem_initBefore (c : Cfg) : .bmstart ∉ initBefore c := by
  cases h : c.std <;> simp [initBefore, initStart, initTable, initTemplate, h]

/-- As `bmstart_not_mem_initBefore`, for the rest of the sequence (R387–R393). -/
theorem bmstart_not_mem_initAfter (c : Cfg) : .bmstart ∉ initAfter c := by
  cases h : c.std <;> simp [initAfter, initProtolines, initVsync, initFrameTable, initPicture, initEnd, h]

theorem State.opInit_endsIdle {s : State} (hs : s.chip.busy = false) : s.opInit.endsIdle :=
  .check hs <| (Run.endsIdle.drain hs).andThen fun _ t ht =>
    (Run.endsIdle.emitAll ht (bmstart_not_mem_initBefore t.cfg)).andThen fun _ u hu =>
      Run.endsIdle.emitAll (s := u.setBurstOn true) hu (bmstart_not_mem_initAfter u.cfg)

theorem State.opWriteIndexEntry_endsIdle {s : State} (hs : s.chip.busy = false) (line kind value : Nat) :
    (s.opWriteIndexEntry line kind value).endsIdle := by
  refine .check hs (.check hs ?_)
  split
  · exact .failRun hs _
  · exact .drainAndSend hs nofun

theorem State.opFillProtoline_endsIdle {s : State} (hs : s.chip.busy = false) (n offset count value : Nat) :
    (s.opFillProtoline n offset count value).endsIdle := by
  refine .check hs (.check hs ?_)
  split
  · exact .ok hs _
  · exact .drainAndSend hs nofun

theorem State.opSetColorBurst_endsIdle {s : State} (hs : s.chip.busy = false) (enable : Nat) :
    (s.opSetColorBurst enable).endsIdle :=
  .check hs <| .check hs <|
    (Run.endsIdle.drainAndSend hs (bmstart_ne_burstFrame s.cfg (enable == 1)).symm).andThen fun _ _ ht => ht

theorem State.opWritePixel_endsIdle {s : State} (hs : s.chip.busy = false) (x y color : Nat) :
    (s.opWritePixel x y color).endsIdle := by
  refine .check hs (.check hs ?_)
  split
  · exact .ok (s := s.countClip) hs _
  · exact .drainAndSend hs nofun

/-- A host op other than the block moves leaves an idle engine idle (R47). -/
theorem State.hostRun_endsIdle {s : State} {i : Instr} {r : Run Nat} (hs : s.chip.busy = false)
    (hi : startsMove i = false) (h : s.hostRun i = some r) : r.endsIdle := by
  have code : ∀ {q : Run Unit}, q.endsIdle → (q.andThen fun _ t => Run.ok 0 t).endsIdle :=
    fun hq => hq.andThen fun _ _ ht => ht
  cases i with
  | init => cases h; exact code (State.opInit_endsIdle hs)
  | protolineAddress | pictureLineAddress | pixelAddress => cases h; exact .check hs (.check hs (.ok hs _))
  | writeIndexEntry => cases h; exact code (State.opWriteIndexEntry_endsIdle hs _ _ _)
  | fillProtoline => cases h; exact code (State.opFillProtoline_endsIdle hs _ _ _ _)
  | setColorBurst => cases h; exact code (State.opSetColorBurst_endsIdle hs _)
  | writePixel => cases h; exact code (State.opWritePixel_endsIdle hs _ _ _)
  | writeByte | writeWord => cases h; exact code (.check hs (.check hs (.drainAndSend hs nofun)))
  | readPixel | readByte => cases h; exact .check hs (.check hs (.drainAndRead hs _))
  | blit | blitSplit => cases hi
  | waitIdle => cases h; exact code (.check hs (.pollLoop hs _))
  | readStatus => cases h; exact .ok hs _
  | _ => cases h

theorem exec_idle {i : Instr} {s t : State} (hi : startsMove i = false) (h : exec i s = .next t)
    (hs : s.chip.busy = false) : t.chip.busy = false := by
  cases hf : i.isFrame with
  | true =>
    obtain rfl := Host.Outcome.next.inj ((exec_frame hf s).symm.trans h)
    have hne : i ≠ .bmstart := by
      rintro rfl
      cases hi
    exact (s.portInstr_busy hne).trans hs
  | false =>
    obtain ⟨r, hrun, ⟨hchip, -⟩, -⟩ := exec_host_last hf h
    have hlast : r.endsIdle := State.hostRun_endsIdle (s := s.beginOp) hs hi hrun
    exact (congrArg Chip.busy hchip).trans hlast

/-- Settles O49: an instruction that sends no `BMSTART` leaves an idle engine idle. -/
theorem onlyMovesSetBusy : Obligations.OnlyMovesSetBusy := by
  intro i s t h hs ht
  refine (startsMove_iff i).mp ?_
  by_contra hi
  have hidle : t.chip.busy = false := exec_idle (Bool.eq_false_iff.mpr hi) h hs
  exact Bool.false_ne_true (hidle.symm.trans ht)

end Sys2Proof.Machine

/-! SUPPORT. Proofs for the statements of spec/40_transport.md: what a host op does that fails a check (R463, R464),
that stores bytes to the SRAM (R171, R172) or that reads one (R173, R304). -/

namespace Sys2Proof.Machine

/-! ## A host op that fails before any frame -/

/-- A host op with a code as its result, refused before any frame (R463, R464). -/
theorem State.refusesWith_of_finishCode {s : State} {i : Instr} {e : Err} {r : Run Unit}
    (hexec : exec i s = finishCode r) (hrun : r = s.beginOp.failRun e) : s.refusesWith i e := by
  subst hrun
  exact ⟨_, hexec, ⟨rfl, rfl, rfl, rfl, rfl⟩, .inl rfl⟩

/-- As `State.refusesWith_of_finishCode`, for a host op that returns a value (R461). -/
theorem State.refusesWith_of_finishValue {s : State} {i : Instr} {e : Err} {r : Run Nat}
    (hexec : exec i s = finishValue r) (hrun : r = s.beginOp.failRun e) : s.refusesWith i e := by
  subst hrun
  exact ⟨_, hexec, ⟨rfl, rfl, rfl, rfl, rfl⟩, .inr rfl⟩

/-- Which arguments of `WRITE_INDEX_ENTRY` give no entry (R301). -/
theorem indexEntryBytes_eq_none_iff (c : Cfg) (kind value : Nat) :
    indexEntryBytes c kind value = none ↔
      2 ≤ kind ∨ (kind = 0 ∧ c.numProtolines ≤ value) ∨
        (kind = 1 ∧ (value = 0 ∨ 131072 < value + c.width)) := by
  match kind with
  | 0 => simp [indexEntryBytes]
  | 1 => simp [indexEntryBytes, Decidable.or_iff_not_imp_left]
  | kind + 2 => simp [indexEntryBytes]

/-! The checks of each host op, with a configuration that is valid. -/

section Checks

variable {s : State} (hv : s.cfg.valid = true)
include hv

theorem State.opWriteByte_range {a d : Nat} (h : 131072 ≤ a ∨ 256 ≤ d) : s.opWriteByte a d = s.failRun .range := by
  simp [State.opWriteByte, hv, h]

theorem State.opWriteByte_accepted {a d : Nat} (ha : a < 131072) (hd : d < 256) :
    s.opWriteByte a d = s.drainAndSend (writeByteFrame a d) := by
  simp [State.opWriteByte, hv, ha, hd]

theorem State.opWriteWord_range {w v : Nat} (h : 65536 ≤ w ∨ 65536 ≤ v) : s.opWriteWord w v = s.failRun .range := by
  simp [State.opWriteWord, hv, h]

theorem State.opWriteWord_accepted {w v : Nat} (hw : w < 65536) (hval : v < 65536) :
    s.opWriteWord w v = s.drainAndSend (writeWordFrame w v) := by
  simp [State.opWriteWord, hv, hw, hval]

theorem State.opReadByte_range {a : Nat} (h : 131072 ≤ a) : s.opReadByte a = s.failRun .range := by
  simp [State.opReadByte, hv, h]

theorem State.opReadByte_accepted {a : Nat} (h : a < 131072) : s.opReadByte a = s.drainAndRead a := by
  simp [State.opReadByte, hv, h]

theorem State.opWriteIndexEntry_range {line kind value : Nat}
    (h : s.cfg.totalLines ≤ line ∨ indexEntryBytes s.cfg kind value = none) :
    s.opWriteIndexEntry line kind value = s.failRun .range := by
  unfold State.opWriteIndexEntry
  by_cases hline : s.cfg.totalLines ≤ line
  · simp [hv, hline]
  · simp [hv, hline, h.resolve_left hline]

theorem State.opFillProtoline_range {n offset count value : Nat}
    (h : s.cfg.numProtolines ≤ n ∨ 65536 ≤ value ∨ s.cfg.lineLen < offset + count) :
    s.opFillProtoline n offset count value = s.failRun .range := by
  simp [State.opFillProtoline, hv, h]

theorem State.opWritePixel_range {x y color : Nat} (h : 256 ≤ color) :
    s.opWritePixel x y color = s.failRun .range := by
  simp [State.opWritePixel, hv, h]

theorem State.opReadPixel_range {x y : Nat} (h : s.cfg.width ≤ x ∨ s.cfg.height ≤ y) :
    s.opReadPixel x y = s.failRun .range := by
  simp [State.opReadPixel, hv, h]

theorem State.opReadPixel_accepted {x y : Nat} (hx : x < s.cfg.width) (hy : y < s.cfg.height) :
    s.opReadPixel x y = s.drainAndRead (s.cfg.pix x y) := by
  simp [State.opReadPixel, hv, hx, hy]

theorem State.opSetColorBurst_range {enable : Nat} (h : 2 ≤ enable) :
    s.opSetColorBurst enable = s.failRun .range := by
  have h1 : 1 < enable := h
  simp [State.opSetColorBurst, hv, h1]

end Checks

/-- Settles O19: each host op's range check comes before its drain. -/
theorem outOfRangeArgumentsAreRefused : Obligations.OutOfRangeArgumentsAreRefused := by
  intro s hvalid
  have hv : s.beginOp.cfg.valid = true := hvalid
  refine ⟨fun a d h => ?_, fun w v h => ?_, fun a h => ?_, fun line kind value h => ?_,
    fun n offset count value h => ?_, fun x y color h => ?_, fun x y h => ?_, fun enable h => ?_⟩
  · exact State.refusesWith_of_finishCode rfl (State.opWriteByte_range hv h)
  · exact State.refusesWith_of_finishCode rfl (State.opWriteWord_range hv h)
  · exact State.refusesWith_of_finishValue rfl (State.opReadByte_range hv h)
  · have hnone := h.imp_right (indexEntryBytes_eq_none_iff s.cfg kind value).mpr
    exact State.refusesWith_of_finishCode rfl (State.opWriteIndexEntry_range hv hnone)
  · exact State.refusesWith_of_finishCode rfl (State.opFillProtoline_range hv h)
  · exact State.refusesWith_of_finishCode rfl (State.opWritePixel_range hv h)
  · exact State.refusesWith_of_finishValue rfl (State.opReadPixel_range hv h)
  · exact State.refusesWith_of_finishCode rfl (State.opSetColorBurst_range hv h)

/-! ## A host op that stores to the SRAM -/

theorem toNat_ofNat_address {a : Nat} (ha : a < 131072) : (BitVec.ofNat 24 a).toNat = a :=
  (BitVec.toNat_ofNat a 24).trans (Nat.mod_eq_of_lt (by omega))

/-- The bytes of a `WRITE` frame that follows a drain, where the host op is ready for it: the state is the one that
`State.storedBy` asks for, once the op has returned `E_OK` (R205, R428). -/
theorem State.hostReady.drainAndSend_write {s : State} (hs : s.hostReady) {a : Nat} {data : List Byte}
    (hne : data ≠ []) (hfit : a + data.length ≤ 131072) :
    ∃ t, s.beginOp.drainAndSend (.write (BitVec.ofNat 24 a) data) = .ok () t ∧
      s.storedBy { t with result := some (.code .ok) } a data ∧ t.block = { s.block with movePending := false } := by
  obtain ⟨hvalid, hmode, hdrains, hreset⟩ := hs
  obtain ⟨-, -, -, hlimit⟩ := Cfg.valid_moveLimits hvalid
  have hpos : 0 < data.length := List.length_pos_iff.mpr hne
  have haddr : (BitVec.ofNat 24 a).toNat = a := toNat_ofNat_address (by omega)
  obtain ⟨t, k, hrun, hcfg, hchip, hblock, hfaults, -, -, hsent⟩ :=
    State.drainAndSend_write (s := s.beginOp) (Cfg.valid_injective hvalid) hlimit hreset hdrains hmode hne
      (haddr.symm ▸ hfit)
  rw [haddr] at hchip
  have hmem : t.chip.mem = Memory.write s.settledMem a data := congrArg Chip.mem hchip
  have hregs : t.chip.registers = s.chip.registers :=
    (congrArg Chip.registers hchip).trans s.idleChip_registers
  have hbusy : t.chip.busy = false := (congrArg Chip.busy hchip).trans s.idleChip_busy
  refine ⟨t, hrun, ⟨fun x => ?_, ⟨hregs, hfaults, hcfg⟩, hbusy, ?_, rfl⟩, hblock⟩
  · exact (congrArg (Memory.read · x) hmem).trans (Memory.read_write _ _ _ _)
  · exact (congrArg List.getLast? hsent).trans List.getLast?_concat

/-- A host op that is a drain and one `WRITE` frame stores the bytes (R428, R464). -/
theorem State.hostReady.exec_stores {s : State} (hs : s.hostReady) {i : Instr} {a : Nat} {data : List Byte}
    (hne : data ≠ []) (hfit : a + data.length ≤ 131072)
    (hexec : exec i s = finishCode (s.beginOp.drainAndSend (.write (BitVec.ofNat 24 a) data))) :
    ∃ t, exec i s = .next t ∧ s.storedBy t a data ∧ t.block = { s.block with movePending := false } := by
  obtain ⟨t, hrun, hstored, hblock⟩ := hs.drainAndSend_write hne hfit
  rw [hrun] at hexec
  exact ⟨_, hexec, hstored, hblock⟩

/-- Settles O21: both ops are a drain and one `WRITE` frame inside the SRAM. -/
theorem byteAndWordOpsStore : Obligations.ByteAndWordOpsStore := by
  intro s hs
  have hv : s.beginOp.cfg.valid = true := hs.1
  refine ⟨fun a d ha hd => ?_, fun w v hw hval => ?_⟩
  · exact hs.exec_stores (List.cons_ne_nil _ _) (Nat.succ_le_of_lt ha)
      (congrArg finishCode (State.opWriteByte_accepted hv ha hd))
  · have hframe : writeWordFrame w v =
        .write (BitVec.ofNat 24 (2 * w)) [BitVec.ofNat 8 (v / 256), BitVec.ofNat 8 v] := by
      rw [writeWordFrame, bytes16_ofNat v hval]
    have hrun := State.opWriteWord_accepted hv hw hval
    rw [hframe] at hrun
    exact hs.exec_stores (List.cons_ne_nil _ _) (by simp only [List.length_cons, List.length_nil]; omega)
      (congrArg finishCode hrun)

/-! ## A host op that reads the SRAM -/

/-- A host op that is a drain and one `READ` frame of a written byte returns it and changes no more (R206, R428). -/
theorem State.hostReady.exec_reads {s : State} (hs : s.hostReady) {i : Instr} {a : Nat} {b : Byte} (ha : a < 131072)
    (hb : Memory.read s.settledMem a = some b) (hexec : exec i s = finishValue (s.beginOp.drainAndRead a)) :
    ∃ t, exec i s = .next t ∧ t.result = some (.value .ok b.toNat) ∧ t.chip.mem = s.settledMem ∧
      s.sameRegisters t ∧ t.chip.busy = false ∧ t.block = { s.block with movePending := false } := by
  obtain ⟨hvalid, hmode, hdrains, hreset⟩ := hs
  obtain ⟨-, -, -, hlimit⟩ := Cfg.valid_moveLimits hvalid
  obtain ⟨t, k, hrun, hcfg, hchip, hblock, hfaults, -⟩ :=
    State.drainAndRead_ok (s := s.beginOp) (Cfg.valid_injective hvalid) hlimit hreset hdrains hmode ha hb
  rw [hrun] at hexec
  have hmem : t.chip.mem = s.settledMem := (congrArg Chip.mem hchip).trans s.idleChip_mem
  have hregs : t.chip.registers = s.chip.registers :=
    (congrArg Chip.registers hchip).trans s.idleChip_registers
  have hbusy : t.chip.busy = false := (congrArg Chip.busy hchip).trans s.idleChip_busy
  exact ⟨_, hexec, rfl, hmem, ⟨hregs, hfaults, hcfg⟩, hbusy, hblock⟩

/-- Settles O26: both ops are a drain and one `READ` frame, a pixel's inside the SRAM by `Cfg.pix_fits`. -/
theorem readOpsReturnTheByte : Obligations.ReadOpsReturnTheByte := by
  intro s b hs
  have hv : s.beginOp.cfg.valid = true := hs.1
  refine ⟨fun a ha hb => ?_, fun x y hx hy hb => ?_⟩
  · exact hs.exec_reads ha hb (congrArg finishValue (State.opReadByte_accepted hv ha))
  · obtain ⟨-, -, hpix⟩ := Cfg.pix_fits hv hx hy
    exact hs.exec_reads hpix hb (congrArg finishValue (State.opReadPixel_accepted hv hx hy))

/-! ## The status -/

/-- Settles O16: `READ_STATUS` has neither a check nor a frame. -/
theorem readStatusReportsTheBlock : Obligations.ReadStatusReportsTheBlock := fun _ => rfl

end Sys2Proof.Machine

/-! SUPPORT. Proofs for the statements of spec/41_chip_commands.md: how a request reaches `exec` (R161, R190), the frames
that decode to no instruction (R191, R192), and the checks of a memory frame (R194–R197) and of `BMSTART` (R213). -/

namespace Sys2Proof

/-! ## The length of a frame -/

/-- The lengths R191 allows a command's frame: any from the shortest on for a memory frame, else the shortest alone. -/
def Cmd.allowsLength (c : Cmd) (n : Nat) : Prop :=
  if c = .write ∨ c = .read then c.minLength ≤ n else n = c.minLength

/-- One way of `frameInstr_eq_none_iff`: each pattern of a command's format has an allowed length. -/
theorem Cmd.allowsLength_of_frameInstr {c : Cmd} {payload : List Byte} {i : Instr}
    (h : frameInstr c payload = some i) : c.allowsLength (payload.length + 1) := by
  cases c with
  | bmstart => match payload, h with | [], _ => rfl
  | wrsr | multiic => match payload, h with | [_], _ => rfl
  | picstart | picend | linelen | vdctrl1 | vdctrl2 | bmstatus => match payload, h with | [_, _], _ => rfl
  | program | indexstart | bmc2 => match payload, h with | [_, _, _, _], _ => rfl
  | bmc1 => match payload, h with | [_, _, _, _, _], _ => rfl
  | write | read => match payload, h with | _ :: _ :: _ :: _ :: rest, _ => exact Nat.le_add_left 5 rest.length

/-- The other way: a payload of an allowed length has the bytes its command's format names. -/
theorem exists_frameInstr_of_allowsLength {c : Cmd} {payload : List Byte}
    (h : c.allowsLength (payload.length + 1)) : ∃ i, frameInstr c payload = some i := by
  cases c with
  | bmstart =>
    obtain rfl := List.length_eq_zero_iff.mp (Nat.succ.inj h)
    exact ⟨_, rfl⟩
  | wrsr | multiic =>
    obtain ⟨d, rfl⟩ := List.length_eq_one_iff.mp (Nat.succ.inj h)
    exact ⟨_, rfl⟩
  | picstart | picend | linelen | vdctrl1 | vdctrl2 | bmstatus =>
    obtain ⟨v1, v0, rfl⟩ := List.length_eq_two.mp (Nat.succ.inj h)
    exact ⟨_, rfl⟩
  | program | indexstart | bmc2 =>
    obtain ⟨v3, v2, v1, v0, rfl⟩ := List.length_eq_four.mp (Nat.succ.inj h)
    exact ⟨_, rfl⟩
  | bmc1 =>
    obtain ⟨s1, rest, rfl⟩ := List.exists_of_length_succ payload (Nat.succ.inj h)
    obtain ⟨s0, d1, d0, f, rfl⟩ := List.length_eq_four.mp (Nat.succ.inj (Nat.succ.inj h))
    exact ⟨_, rfl⟩
  | write | read =>
    have hlen : 4 ≤ payload.length := Nat.le_of_succ_le_succ h
    match payload, hlen with
    | _ :: _ :: _ :: _ :: _, _ => exact ⟨_, rfl⟩

/-- A command's format reads a payload exactly at the frame lengths R191 allows. -/
theorem frameInstr_eq_none_iff {c : Cmd} {payload : List Byte} :
    frameInstr c payload = none ↔ ¬ c.allowsLength (payload.length + 1) := by
  refine ⟨fun h hallowed => ?_, fun h => ?_⟩
  · obtain ⟨i, hi⟩ := exists_frameInstr_of_allowsLength hallowed
    exact Option.some_ne_none i (hi.symm.trans h)
  · exact Option.eq_none_iff_forall_ne_some.mpr fun i hi => h (Cmd.allowsLength_of_frameInstr hi)

/-- Three address bytes, most significant first, as one number (R86, R125). -/
theorem toNat_append_bytes (b2 b1 b0 : Byte) :
    (b2 ++ b1 ++ b0 : BitVec 24).toNat = 65536 * b2.toNat + 256 * b1.toNat + b0.toNat := by
  rw [BitVec.toNat_append, ← Nat.shiftLeft_add_eq_or_of_lt b0.isLt, BitVec.toNat_append,
    ← Nat.shiftLeft_add_eq_or_of_lt b1.isLt, Nat.shiftLeft_eq, Nat.shiftLeft_eq]
  omega

end Sys2Proof

namespace Sys2Proof.Machine

/-! ## The address of a fault entry -/

/-- The source address of a `BMSTART`'s entry, in numbers (R130, R468). -/
theorem Chip.moveSource_eq (c : Chip) : c.moveSource = c.bmc1.map fun p => 2 * p.srcW.toNat + p.srcOdd.toNat := by
  unfold Chip.moveSource
  simp only [Bmc1.src_toNat]

/-- Settles O54: the allowed lengths are those at which the command's format reads the payload. -/
theorem frameLengthsAllowed : Obligations.FrameLengthsAllowed := by
  intro m c payload n allowed hm hn hallowed
  have hlength : allowed ↔ c.allowsLength (payload.length + 1) := by
    rw [hallowed, hn]
    cases c <;> simp [Cmd.allowsLength, Cmd.minLength]
  have hnone : frameInstr c payload = none ↔ ¬ allowed := frameInstr_eq_none_iff.trans hlength.not.symm
  refine ⟨fun h => ?_, fun h => ⟨?_, fun s hs => ?_⟩⟩
  · obtain ⟨i, hi⟩ := exists_frameInstr_of_allowsLength (hlength.mp h)
    exact ⟨i, by rw [decode, decodeFrame_code hm, hi]⟩
  · rw [decode, decodeFrame_code hm, hnone.mpr h]
  · subst hs hn
    rw [State.portFrame_of_length hm (hnone.mpr h)]
    congr 2
    cases c with
    | write | read =>
      match payload with
      | b2 :: b1 :: b0 :: _ => exact congrArg some (toNat_append_bytes b2 b1 b0)
      | [] | [_] | [_, _] => rfl
    | bmstart => exact s.chip.moveSource_eq
    | _ => rfl

/-! ## A request taken from the inputs -/

/-- A step that no `HOST_RESET` comes before takes the request that stands first (R501). -/
theorem State.fetch_request {s : State} {r : Request} {rest : List Input} (hr : s.hostResetIn ≠ some 0)
    (hin : s.inputs = .request r :: rest) : s.fetch = State.fetchRequest { s with inputs := rest } r := by
  unfold State.fetch
  split
  · exact absurd ‹_› hr
  · rw [hin]

theorem step_of_run {s t : State} {i : Instr} (h : s.fetch = .run i t) : step s = exec i t := by
  rw [step, h]

theorem step_of_settled {s t : State} (h : s.fetch = .settled t) : step s = .next t := by
  rw [step, h]

/-- A frame is transferred and then decoded (R161, R190). -/
theorem State.fetchRequest_frame_of_instr {s : State} {bytes : List Byte} {i : Instr}
    (h : decodeFrame s.cfg.opmap bytes = .instr i) :
    s.fetchRequest (.frame bytes) = .run i (s.transfer bytes) := by
  simp only [State.fetchRequest, h]

/-- A call is decoded with no transfer before it (R133). -/
theorem State.fetchRequest_call_of_instr (s : State) {code : Nat} {args : List Nat} {i : Instr}
    (h : decodeCall code args = .instr i) : s.fetchRequest (.call code args) = .run i s := by
  simp only [State.fetchRequest, h]

/-- Settles O56: a step is `exec` of what it takes. -/
theorem stepRunsTheDecodedInstruction : Obligations.StepRunsTheDecodedInstruction := by
  intro s rest i hr
  refine ⟨fun bytes hin hdec => ?_, fun code args hin hdec => ?_⟩
  · exact step_of_run ((State.fetch_request hr hin).trans (State.fetchRequest_frame_of_instr hdec))
  · exact step_of_run ((State.fetch_request hr hin).trans (State.fetchRequest_call_of_instr _ hdec))

/-! ## A request that is no instruction -/

/-- A frame of an opcode outside `OPMAP` is no status frame. -/
theorem isStatusFrame_of_unknownOpcode {m : OpMap} {b0 : Byte} (h : m.command b0 = none) (payload : List Byte) :
    isStatusFrame m (b0 :: payload) = false := by
  simp only [isStatusFrame, decodeFrame, h]

/-- A frame of an opcode outside `OPMAP` is transferred and records `F_UNKNOWN_OPCODE` without an address (R192, R468). -/
theorem State.fetchRequest_unknownOpcode {s : State} {b0 : Byte} (h : s.cfg.opmap.command b0 = none)
    (payload : List Byte) :
    s.fetchRequest (.frame (b0 :: payload)) =
      .settled (((s.transfer (b0 :: payload)).raise .unknownOpcode b0 none).respondDraws (payload.length + 1)) := by
  obtain ⟨hcfg, -⟩ := s.transfer_host (b0 :: payload)
  simp only [State.fetchRequest, decodeFrame, h, State.rejectFrame, hcfg, Option.bind_none, List.tail_cons]

/-- The chip a transfer leaves is the engine's, with `SELECT` 0 (R161). -/
theorem State.transfer_chip (s : State) (bytes : List Byte) :
    (s.transfer bytes).chip =
      { (s.engineGap (isStatusFrame s.cfg.opmap bytes)).chip with select := false } := rfl

/-- What is still to come from outside is no part of the chip layer (R4). -/
theorem SameChipLayer.of_inputs (s : State) (rest : List Input) : SameChipLayer s { s with inputs := rest } :=
  ⟨rfl, rfl, rfl, rfl, rfl, rfl, rfl⟩

/-- No host op has a code past 0x0F (R133). -/
theorem decodeCall_unknown {code : Nat} (h : 16 ≤ code) (args : List Nat) :
    decodeCall code args = .unknownHostOp code := by
  have hnone : callInstr code args = none := by
    unfold callInstr
    split <;> first | rfl | omega
  rw [decodeCall, hnone]
  exact if_neg (Nat.not_lt.mpr h)

/-- Settles O55: what a step takes for each of the three requests that are no instruction. -/
theorem undefinedEncodingsAreRefused : Obligations.UndefinedEncodingsAreRefused := by
  intro s rest hr
  refine ⟨fun b0 payload hin hno => ?_, fun hin => ?_, fun code args hcode hin => ?_⟩
  · have hnone : s.cfg.opmap.command b0 = none := OpMap.command_eq_none.mpr hno
    have hfetch := (State.fetch_request hr hin).trans
      (State.fetchRequest_unknownOpcode (s := { s with inputs := rest }) hnone payload)
    obtain ⟨-, hblock, -, -, -, hfaults, hdraws, -⟩ :=
      State.transfer_host { s with inputs := rest } (b0 :: payload)
    refine ⟨_, step_of_settled hfetch, ?_, hblock, ?_, ?_⟩
    · obtain ⟨hgap, -⟩ := (SameChipLayer.of_inputs s rest).engineGap false
      rw [State.respondDraws_chip, State.raise_chip, State.transfer_chip, isStatusFrame_of_unknownOpcode hnone, hgap]
    · exact congrArg (withFault · ⟨.unknownOpcode, b0, none⟩) hfaults
    · rw [State.respondDraws_response]
      simp only [State.drawBytes, State.raise_draws, hdraws]
  · exact step_of_settled (State.fetch_request hr hin)
  · rw [step, State.fetch_request hr hin, State.fetchRequest, decodeCall_unknown hcode]

/-! ## The checks of a memory frame -/

/-- A memory frame's fault is the first of R194–R197 whose condition holds. -/
theorem State.memoryFault_eq_some {s : State} {a : BitVec 24} {k : Nat} {f : ChipFault} (hk : 1 ≤ k)
    (h : if s.chip.mode ≠ some 1 then f = .mode
      else if s.chip.multiic.map BitVec.toNat ≠ some s.cfg.multiicOff then f = .multiic
      else if s.chip.busy then f = .busyAccess
      else f = .addr ∧ (131072 ≤ a.toNat ∨ 131072 < a.toNat + k)) : s.memoryFault a k = some f := by
  unfold State.memoryFault
  split at h
  case isTrue hmode => rw [if_pos hmode, h]
  case isFalse hmode =>
    rw [if_neg hmode]
    split at h
    case isTrue hmulti => rw [if_pos hmulti, h]
    case isFalse hmulti =>
      rw [if_neg hmulti]
      split at h
      case isTrue hbusy => rw [if_pos hbusy, h]
      case isFalse hbusy =>
        obtain ⟨rfl, haddr⟩ := h
        have houtside : transferOutside a k = true := (transferOutside_iff a hk).mpr (by omega)
        rw [if_neg hbusy, if_pos houtside]

theorem State.portWrite_of_fault {s : State} {a : BitVec 24} {data : List Byte} {f : ChipFault} (hne : data ≠ [])
    (h : s.memoryFault a data.length = some f) :
    s.portWrite a data = (s.raise f (s.opcode .write) (some a.toNat)).respondDraws (4 + data.length) := by
  simp [State.portWrite, hne, h]

theorem State.portRead_of_fault {s : State} {a : BitVec 24} {filler : List Byte} {f : ChipFault} (hne : filler ≠ [])
    (h : s.memoryFault a filler.length = some f) :
    s.portRead a filler = (s.raise f (s.opcode .read) (some a.toNat)).respondDraws (4 + filler.length) := by
  simp [State.portRead, hne, h]

/-- Settles O8: both frames make the same checks. -/
theorem memoryFrameChecksInOrder : Obligations.MemoryFrameChecksInOrder := by
  intro s a data f hne h
  have hfault : s.memoryFault a data.length = some f := State.memoryFault_eq_some (List.length_pos_iff.mpr hne) h
  exact ⟨congrArg Host.Outcome.next (State.portWrite_of_fault hne hfault),
    congrArg Host.Outcome.next (State.portRead_of_fault hne hfault)⟩

/-! ## The checks of `BMSTART` -/

theorem apart1_iff (x y : Nat) : apart1 x y = true ↔ |(x : Int) - y| = 1 := by
  simp only [apart1, Bool.or_eq_true, beq_iff_eq, abs_eq (zero_le_one (α := Int))]
  omega

/-- The machine's test of `OVERLAP1` is R213's: its two disjuncts are the integers `k` and `−k`. -/
theorem overlap1_iff_overlapsByOne (s d h stride : Nat) : overlap1 s d h stride = true ↔ overlapsByOne s d h stride := by
  simp only [overlap1, overlapsByOne, List.any_eq_true, List.mem_range, Bool.or_eq_true, apart1_iff]
  have hpos (n : Nat) : (d : Int) - s - n * stride = d - (s + n * stride : Nat) := by push_cast; ring
  have hneg (n : Nat) : (d : Int) - s - -n * stride = (d + n * stride : Nat) - s := by push_cast; ring
  constructor
  · rintro ⟨k, hk, hd | hd⟩
    · exact ⟨k, by simpa using hk, by rwa [hpos]⟩
    · exact ⟨-k, by simpa using hk, by rwa [hneg]⟩
  · rintro ⟨k, hk, hd⟩
    obtain ⟨n, rfl | rfl⟩ := Int.eq_nat_or_neg k
    · exact ⟨n, by simpa using hk, .inl (by rwa [hpos] at hd)⟩
    · exact ⟨n, by simpa using hk, .inr (by rwa [hneg] at hd)⟩

/-- R213's check 3, in numbers. -/
theorem moveOutside_iff (dir : Bool) (s d span : Nat) : moveOutside dir s d span = true ↔ ¬ moveInside dir s d span := by
  cases dir <;> simp [moveOutside, moveInside] <;> omega

/-- R213's check 4, in numbers. -/
theorem moveUnreliable_iff (c : Cfg) (s d w h stride : Nat) :
    moveUnreliable c s d w h stride = true ↔
      w < c.bmMinWidth ∨ c.bmMaxWidth < w ∨ overlapsByOne s d h stride := by
  simp [moveUnreliable, overlap1_iff_overlapsByOne, or_assoc]

/-- The checks of an idle chip whose shadow fields are written, in the numbers of R213. -/
theorem State.startCheck_shadow {s : State} {p : Bmc1} {q : Bmc2} {src dst w h stride : Nat}
    (hbusy : ¬ s.chip.busy = true) (hp : s.chip.bmc1 = some p) (hq : s.chip.bmc2 = some q)
    (hsrc : src = 2 * p.srcW.toNat + p.srcOdd.toNat) (hdst : dst = 2 * p.dstW.toNat + p.dstOdd.toNat)
    (hw : w = q.width.toNat) (hh : h = q.hm1.toNat + 1) (hstride : stride = q.stride.toNat) :
    s.startCheck =
      if w = 0 then .error .bmParams
      else if moveOutside p.dir src dst (rectSpan w h stride) then .error .bmRange
      else if moveUnreliable s.cfg src dst w h stride then .error .bmUnreliable
      else .ok (latch p q) := by
  subst hw hh hstride
  rw [State.startCheck, if_neg hbusy, hp, hq]
  simp only [Bmc1.src_toNat, Bmc1.dst_toNat, ← hsrc, ← hdst]

/-- With a shadow register that is `⊥`, `BMSTART` has no parameters to start from (R213). -/
theorem State.startCheck_unset {s : State} (hbusy : ¬ s.chip.busy = true)
    (h : s.chip.bmc1 = none ∨ s.chip.bmc2 = none) : s.startCheck = .error .bmParams := by
  rw [State.startCheck, if_neg hbusy]
  split
  · simp_all
  · rfl

theorem State.portBmstart_of_fault {s : State} {f : ChipFault} (h : s.startCheck = .error f) :
    s.portBmstart = (s.raise f (s.opcode .bmstart) s.chip.moveSource).respondDraws 1 := by
  rw [State.portBmstart, h]

/-- Settles O10: each case of the order is the check that fails first. -/
theorem moveStartChecksInOrder : Obligations.MoveStartChecksInOrder := by
  intro s f h
  have hfault : s.startCheck = .error f := by
    split at h
    case isTrue hbusy => rw [State.startCheck, if_pos hbusy, h]
    case isFalse hbusy =>
      split at h
      case h_1 p q hp hq =>
        obtain ⟨src, dst, w, height, stride, hsrc, hdst, hw, hh, hstride, hcase⟩ := h
        rw [State.startCheck_shadow hbusy hp hq hsrc hdst hw hh hstride]
        have hout := moveOutside_iff p.dir src dst (rectSpan w height stride)
        rcases hcase with ⟨hw0, rfl⟩ | ⟨hw0, houtside, rfl⟩ | ⟨hw0, hinside, hunreliable, rfl⟩
        · rw [if_pos hw0]
        · rw [if_neg hw0, if_pos (hout.mpr houtside)]
        · rw [if_neg hw0, if_neg fun h => hout.mp h hinside, if_pos ((moveUnreliable_iff _ _ _ _ _ _).mpr hunreliable)]
      case h_2 hq => rw [State.startCheck_unset hbusy (.inr hq), h]
      case h_3 hp => rw [State.startCheck_unset hbusy (.inl hp), h]
  have hport := State.portBmstart_of_fault hfault
  rw [s.chip.moveSource_eq] at hport
  exact congrArg Host.Outcome.next hport

end Sys2Proof.Machine

/-! SUPPORT. Proofs for the statements of spec/42_geometry.md: an invalid configuration is refused by every host op but
`READ_STATUS` (R264), and the reference microcode program splits a picture byte (R262). -/

namespace Sys2Proof.Machine

/-! ## An invalid configuration -/

/-- The check that each host op but `READ_STATUS` begins with, before its drain and its own checks (R8, R264). -/
theorem State.configCheck_of_invalid {α : Type} {s : State} (hv : s.cfg.valid = false) (r : Run α) :
    (if !s.cfg.valid then s.failRun .config else r) = s.failRun .config := by
  rw [hv]
  rfl

/-- Settles O17: whatever a host op is and whatever its arguments are, its first check is the configuration's. -/
theorem invalidConfigurationIsRefused : Obligations.InvalidConfigurationIsRefused := by
  intro i s hv hi hne
  have hstart : s.beginOp.cfg.valid = false := hv
  cases i with
  | readStatus => exact absurd rfl hne
  | init | writeIndexEntry | fillProtoline | setColorBurst | writePixel | writeByte | writeWord | blit | blitSplit
  | waitIdle => exact State.refusesWith_of_finishCode rfl (State.configCheck_of_invalid hstart _)
  | protolineAddress | pictureLineAddress | pixelAddress | readPixel | readByte =>
    exact State.refusesWith_of_finishValue rfl (State.configCheck_of_invalid hstart _)
  | _ => cases hi

/-! ## The microcode -/

/-- An `END` op leaves the pixel as it is, whatever stands after it (R344). -/
theorem runOps_cons_of_end {op : Byte} (h : opPlane op = 3) (ops : List Byte) (px : Pixel) (d : Byte) :
    runOps (op :: ops) px d = px := if_pos h

/-- Any other op puts its field into its plane and shifts the data (R344). -/
theorem runOps_cons_of_ne_end {op : Byte} (h : opPlane op ≠ 3) (ops : List Byte) (px : Pixel) (d : Byte) :
    runOps (op :: ops) px d =
      runOps ops (px.setPlane (opPlane op) (d &&& BitVec.ofNat 8 (2 ^ opBits op - 1))) (d >>> opShift op) := if_neg h

/-- The two bits that are left of a byte after the `Y` and `U` shifts are all that `V`'s mask keeps. -/
theorem ushiftRight_four_two_and_three (b : Byte) : (b >>> 4 >>> 2) &&& (3 : Byte) = b >>> 6 := by
  rw [← BitVec.shiftRight_add]
  have hlt : (b >>> 6).toNat < 2 ^ 2 := by
    rw [BitVec.toNat_ushiftRight, Nat.shiftRight_eq_div_pow]
    omega
  exact BitVec.eq_of_toNat_eq (Nat.and_two_pow_sub_one_of_lt_two_pow hlt)

/-- The reference program run on a byte, op by op (R262). -/
theorem ucode_reference (b : Byte) : ucode 0x0346458C b = ⟨b &&& 0x0F, (b >>> 4) &&& 3, b >>> 6⟩ := by
  have slots : [0, 1, 2, 3].map (microOp 0x0346458C) = [0x8C, 0x45, 0x46, 0x03] := by decide
  calc ucode 0x0346458C b
      = runOps [0x8C, 0x45, 0x46, 0x03] ⟨0, 0, 0⟩ b := congrArg (runOps · ⟨0, 0, 0⟩ b) slots
    _ = runOps [0x45, 0x46, 0x03] ⟨b &&& 0x0F, 0, 0⟩ (b >>> 4) := runOps_cons_of_ne_end (by decide) ..
    _ = runOps [0x46, 0x03] ⟨b &&& 0x0F, (b >>> 4) &&& 3, 0⟩ (b >>> 4 >>> 2) := runOps_cons_of_ne_end (by decide) ..
    _ = runOps [0x03] ⟨b &&& 0x0F, (b >>> 4) &&& 3, (b >>> 4 >>> 2) &&& 3⟩ (b >>> 4 >>> 2 >>> 2) :=
      runOps_cons_of_ne_end (by decide) ..
    _ = ⟨b &&& 0x0F, (b >>> 4) &&& 3, (b >>> 4 >>> 2) &&& 3⟩ := runOps_cons_of_end (by decide) ..
    _ = ⟨b &&& 0x0F, (b >>> 4) &&& 3, b >>> 6⟩ := by rw [ushiftRight_four_two_and_three]

/-- Settles O57: the table of R262 is read off the program word, and the pixel is `ucode_reference`. -/
theorem referenceProgramSplitsTheByte : Obligations.ReferenceProgramSplitsTheByte :=
  ⟨ucode_reference, by decide⟩

end Sys2Proof.Machine

/-! SUPPORT. Proofs for the statements of spec/43_layout_index.md: the layout of the SRAM (R290–R297), the index entry
(R305–R307), the host ops over them (R298–R304), and the index table that `INIT` builds (R308). -/

namespace Sys2Proof

/-! ## The layout -/

/-- A protoline begins where the one before it ends (R290). -/
theorem Cfg.protoByte_succ (c : Cfg) (n : Nat) : c.protoByte (n + 1) = c.protoByte n + 2 * c.lineLen := by
  unfold Cfg.protoByte
  ring

theorem Cfg.protoByte_mono (c : Cfg) {n k : Nat} (h : n ≤ k) : c.protoByte n ≤ c.protoByte k :=
  Nat.mul_le_mul_right _ (Nat.mul_le_mul_left 2 h)

/-- Rows are `PITCH` apart (R294). -/
theorem Cfg.row_succ (c : Cfg) (r : Nat) : c.row (r + 1) = c.row r + c.pitch := by
  unfold Cfg.row
  ring

/-- A pixel's column and row are the remainder and the quotient of its offset by `PITCH`, so that two pixels of the
picture never share a byte (R295). -/
theorem Cfg.pix_injective (c : Cfg) {x y x' y' : Nat} (hx : x < c.width) (hx' : x' < c.width)
    (h : c.pix x y = c.pix x' y') : x = x' ∧ y = y' := by
  have hlt : x < c.pitch := Nat.lt_add_right c.guard hx
  have hlt' : x' < c.pitch := Nat.lt_add_right c.guard hx'
  have hoff : x + c.pitch * y = x' + c.pitch * y' := by
    unfold Cfg.pix Cfg.row at h
    rw [Nat.mul_comm, Nat.mul_comm c.pitch y']
    omega
  have hcol := congrArg (· % c.pitch) hoff
  simp only [Nat.add_mul_mod_self_left, Nat.mod_eq_of_lt hlt, Nat.mod_eq_of_lt hlt'] at hcol
  subst hcol
  exact ⟨rfl, Nat.eq_of_mul_eq_mul_left (Nat.zero_lt_of_lt hlt) (Nat.add_left_cancel hoff)⟩

/-- A run of words inside a protoline lies inside the SRAM (R302). -/
theorem Cfg.protoline_words_fit {c : Cfg} (h : c.valid = true) {n offset count : Nat} (hn : n < c.numProtolines)
    (hfit : offset + count ≤ c.lineLen) : c.protoByte n + 2 * offset + 2 * count ≤ 131072 := by
  obtain ⟨hend, hindex⟩ := Cfg.protoline_fits h hn
  omega

/-- Settles O60: the picture region and its end are R292's and R297's sums. -/
theorem regionsAreDisjoint : Obligations.RegionsAreDisjoint := by
  intro c h
  have heven : c.pictureStart = c.indexEnd + c.indexEnd % 2 := rfl
  refine ⟨fun n k hnk => ?_, fun n hn => (Cfg.protoline_fits h hn).1, fun l hl => ?_, by omega, by omega, by omega,
    fun x y hx hy => ?_, rfl, Cfg.valid_memory h, fun x y x' y' hx _ hx' _ => c.pix_injective hx hx'⟩
  · exact (c.protoByte_succ n).symm.trans_le (c.protoByte_mono hnk)
  · unfold Cfg.entryAddr Cfg.indexEnd
    omega
  · obtain ⟨hstart, hend, -⟩ := Cfg.pix_fits h hx hy
    exact ⟨hstart, hend⟩

end Sys2Proof

namespace Sys2Proof.Machine

/-! ## The index entry -/

/-- A protoline entry, in numbers (R305). -/
theorem encProto_eq (n : Nat) : encProto n = [0, 0, BitVec.ofNat 8 (16 * n)] := by
  rw [encProto, Nat.shiftLeft_eq, Nat.mul_comm]

/-- The bytes of a picture entry, in numbers (R306). -/
theorem encPic_eq {a : Nat} (ha : a < 131072) :
    encPic a = [BitVec.ofNat 8 a, BitVec.ofNat 8 (a / 256), BitVec.ofNat 8 (a / 65536)] := by
  have h0 : (BitVec.ofNat 17 a).extractLsb' 0 8 = BitVec.ofNat 8 a := by
    apply BitVec.eq_of_toNat_eq
    simp [Nat.mod_eq_of_lt ha]
  have h1 : (BitVec.ofNat 17 a).extractLsb' 8 8 = BitVec.ofNat 8 (a / 256) := by
    apply BitVec.eq_of_toNat_eq
    simp [Nat.shiftRight_eq_div_pow, Nat.mod_eq_of_lt ha]
  have h2 : ((BitVec.ofNat 17 a).extractLsb' 16 1).setWidth 8 = BitVec.ofNat 8 (a / 65536) := by
    apply BitVec.eq_of_toNat_eq
    simp [Nat.shiftRight_eq_div_pow, Nat.mod_eq_of_lt ha]
    omega
  simp only [encPic, h0, h1, h2]

@[simp] theorem encProto_length (n : Nat) : (encProto n).length = 3 := rfl
@[simp] theorem encPic_length (a : Nat) : (encPic a).length = 3 := rfl

/-- The address an entry holds, as a number (R307). -/
theorem entryPicture_toNat (e0 e1 e2 : Byte) :
    (entryPicture e0 e1 e2).toNat = 65536 * (e2.toNat % 2) + 256 * e1.toNat + e0.toNat := by
  rw [entryPicture, BitVec.toNat_append, ← Nat.shiftLeft_add_eq_or_of_lt e0.isLt, BitVec.toNat_append,
    ← Nat.shiftLeft_add_eq_or_of_lt e1.isLt, Nat.shiftLeft_eq, Nat.shiftLeft_eq, BitVec.extractLsb'_toNat,
    Nat.shiftRight_zero]
  omega

/-- The protoline an entry selects, as a number (R307). -/
theorem entrySelector_toNat (e2 : Byte) : (entrySelector e2).toNat = e2.toNat / 16 := by
  have := e2.isLt
  rw [entrySelector, BitVec.extractLsb'_toNat, Nat.shiftRight_eq_div_pow]
  omega

/-- Settles O59: an entry's fields are read back as the numbers they were made of. -/
theorem indexEntriesDecode : Obligations.IndexEntriesDecode := by
  refine ⟨fun n hn => ⟨encProto_eq n, ?_, ?_⟩, fun a _ ha => ⟨encPic_eq ha, ?_, ?_⟩⟩ <;>
    apply BitVec.eq_of_toNat_eq
  · rw [entryPicture_toNat]
    simp only [BitVec.toNat_ofNat, BitVec.ofNat_eq_ofNat]
    omega
  · rw [entrySelector_toNat]
    simp only [BitVec.toNat_ofNat]
    omega
  · rw [entryPicture_toNat]
    simp only [BitVec.toNat_ofNat]
    omega
  · rw [entrySelector_toNat]
    simp only [BitVec.toNat_ofNat, BitVec.ofNat_eq_ofNat]
    omega

/-! ## The address ops -/

section Checks

variable {s : State} (hv : s.cfg.valid = true)
include hv

theorem State.opProtolineAddress_accepted {n : Nat} (hn : n < s.cfg.numProtolines) :
    s.opProtolineAddress n = .ok (s.cfg.protoWord n) s := by
  simp [State.opProtolineAddress, hv, hn]

theorem State.opProtolineAddress_range {n : Nat} (hn : s.cfg.numProtolines ≤ n) :
    s.opProtolineAddress n = s.failRun .range := by
  simp [State.opProtolineAddress, hv, hn]

theorem State.opPictureLineAddress_accepted {n : Nat} (hn : n < s.cfg.height) :
    s.opPictureLineAddress n = .ok (s.cfg.row n) s := by
  simp [State.opPictureLineAddress, hv, hn]

theorem State.opPictureLineAddress_range {n : Nat} (hn : s.cfg.height ≤ n) :
    s.opPictureLineAddress n = s.failRun .range := by
  simp [State.opPictureLineAddress, hv, hn]

theorem State.opPixelAddress_accepted {x y : Nat} (hx : x < s.cfg.width) (hy : y < s.cfg.height) :
    s.opPixelAddress x y = .ok (s.cfg.pix x y) s := by
  simp [State.opPixelAddress, hv, hx, hy]

theorem State.opPixelAddress_range {x y : Nat} (h : s.cfg.width ≤ x ∨ s.cfg.height ≤ y) :
    s.opPixelAddress x y = s.failRun .range := by
  simp [State.opPixelAddress, hv, h]

theorem State.opWriteIndexEntry_accepted {line kind value : Nat} {e : List Byte} (hl : line < s.cfg.totalLines)
    (he : indexEntryBytes s.cfg kind value = some e) :
    s.opWriteIndexEntry line kind value = s.drainAndSend (entryFrame (s.cfg.entryAddr line) e) := by
  simp [State.opWriteIndexEntry, hv, hl, he]

theorem State.opFillProtoline_accepted {n offset count value : Nat} (hn : n < s.cfg.numProtolines)
    (hval : value < 65536) (hfit : offset + count ≤ s.cfg.lineLen) (hc : 0 < count) :
    s.opFillProtoline n offset count value =
      s.drainAndSend (fillFrame (s.cfg.protoByte n + 2 * offset) count value) := by
  simp [State.opFillProtoline, hv, hn, hval, hfit, Nat.ne_of_gt hc]

theorem State.opFillProtoline_none {n offset value : Nat} (hn : n < s.cfg.numProtolines)
    (hval : value < 65536) (hfit : offset ≤ s.cfg.lineLen) : s.opFillProtoline n offset 0 value = .ok () s := by
  simp [State.opFillProtoline, hv, hn, hval, hfit]

theorem State.opWritePixel_accepted {x y color : Nat} (hx : x < s.cfg.width) (hy : y < s.cfg.height)
    (hc : color < 256) : s.opWritePixel x y color = s.drainAndSend (writeByteFrame (s.cfg.pix x y) color) := by
  simp [State.opWritePixel, hv, Nat.not_le.mpr hx, Nat.not_le.mpr hy, Nat.not_le.mpr hc]

theorem State.opWritePixel_dropped {x y color : Nat} (h : s.cfg.width ≤ x ∨ s.cfg.height ≤ y)
    (hc : color < 256) : s.opWritePixel x y color = .ok () s.countClip := by
  simp [State.opWritePixel, hv, h, Nat.not_le.mpr hc]

end Checks

/-- Settles O18: each address op is its check and its formula. -/
theorem addressOpsAnswerTheFormulas : Obligations.AddressOpsAnswerTheFormulas := by
  intro s n x y
  refine ⟨fun hvalid => ?_, fun hinvalid => ?_, by rw [s.cfg.row_succ, Nat.add_sub_cancel_left]⟩
  · have hv : s.beginOp.cfg.valid = true := hvalid
    refine ⟨fun hn => ?_, fun hn => ?_, fun hn => ?_, fun hn => ?_, fun hx hy => ?_, fun h => ?_⟩
    · exact congrArg finishValue (State.opProtolineAddress_accepted hv hn)
    · exact State.refusesWith_of_finishValue rfl (State.opProtolineAddress_range hv hn)
    · exact congrArg finishValue (State.opPictureLineAddress_accepted hv hn)
    · exact State.refusesWith_of_finishValue rfl (State.opPictureLineAddress_range hv hn)
    · exact congrArg finishValue (State.opPixelAddress_accepted hv hx hy)
    · exact State.refusesWith_of_finishValue rfl (State.opPixelAddress_range hv h)
  · have refused (i : Instr) (hi : i.isFrame = false) (hne : i ≠ .readStatus) : s.refusesWith i .config :=
      invalidConfigurationIsRefused i s hinvalid hi hne
    exact ⟨refused _ rfl nofun, refused _ rfl nofun, refused _ rfl nofun⟩

/-! ## The ops that store -/

/-- `CLIP_COUNT` counts up to 0xFFFF and stays there (R51). -/
theorem clipSucc_eq (k : Half) : clipSucc k = BitVec.ofNat 16 (min (k.toNat + 1) 0xFFFF) := by
  have hk := k.isLt
  unfold clipSucc
  split
  · subst k
    rfl
  · next hne =>
    have hlt : k.toNat ≠ 0xFFFF := fun h => hne (BitVec.eq_of_toNat_eq h)
    rw [Nat.min_eq_left (by omega)]
    apply BitVec.eq_of_toNat_eq
    simp

/-- Settles O20: the dropped pixel is counted before any drain. -/
theorem pixelOutsideThePictureIsCounted : Obligations.PixelOutsideThePictureIsCounted := by
  intro s x y color hvalid hc h
  have hv : s.beginOp.cfg.valid = true := hvalid
  rw [← clipSucc_eq]
  exact congrArg finishCode (State.opWritePixel_dropped hv h hc)

/-- `WRITE_INDEX_ENTRY` of an entry of three bytes stores it at its line (R291, R301). -/
theorem State.hostReady.exec_writeIndexEntry {s : State} (hs : s.hostReady) {line kind value : Nat} {e : List Byte}
    (hl : line < s.cfg.totalLines) (he : indexEntryBytes s.cfg kind value = some e) (hlen : e.length = 3) :
    ∃ t, exec (.writeIndexEntry line kind value) s = .next t ∧ s.storedBy t (s.cfg.entryAddr line) e ∧
      t.block = { s.block with movePending := false } := by
  have hv : s.beginOp.cfg.valid = true := hs.1
  have hne : e ≠ [] := List.ne_nil_of_length_pos (by omega)
  have hfit : s.cfg.entryAddr line + e.length ≤ 131072 := hlen ▸ Cfg.entryAddr_fits hs.1 hl
  exact hs.exec_stores hne hfit (congrArg finishCode (State.opWriteIndexEntry_accepted hv hl he))

/-- Settles O22: the entry of either kind, in numbers, stored at its line. -/
theorem indexEntryOpStores : Obligations.IndexEntryOpStores := by
  intro s line value hs hl
  refine ⟨fun hn => ?_, fun hpos hfit => ?_⟩
  · have he : indexEntryBytes s.cfg 0 value = some (encProto value) := by simp [indexEntryBytes, hn]
    rw [← encProto_eq]
    exact hs.exec_writeIndexEntry hl he rfl
  · obtain ⟨hw, -⟩ := Cfg.valid_size hs.1
    have he : indexEntryBytes s.cfg 1 value = some (encPic value) := by
      simp [indexEntryBytes, Nat.ne_of_gt hpos, hfit]
    rw [← encPic_eq (by omega)]
    exact hs.exec_writeIndexEntry hl he rfl

@[simp] theorem repeatWord_length (count : Nat) (v : Half) : (repeatWord count v).length = 2 * count := by
  simp [repeatWord, bytes16, Nat.mul_comm]

/-- Settles O23: the words are one `WRITE` frame inside the protoline. -/
theorem fillProtolineStoresCopies : Obligations.FillProtolineStoresCopies := by
  intro s n offset count value hn hval hfit
  refine ⟨fun hc hvalid => ?_, fun hc hs => ?_⟩
  · subst hc
    have hv : s.beginOp.cfg.valid = true := hvalid
    exact congrArg finishCode (State.opFillProtoline_none hv hn hval hfit)
  · have hv : s.beginOp.cfg.valid = true := hs.1
    have hwords := Cfg.protoline_words_fit hs.1 hn hfit
    have hlen := repeatWord_length count (BitVec.ofNat 16 value)
    have hne : repeatWord count (BitVec.ofNat 16 value) ≠ [] := List.ne_nil_of_length_pos (by omega)
    rw [← bytes16_ofNat value hval]
    exact hs.exec_stores hne (hlen.symm ▸ hwords)
      (congrArg finishCode (State.opFillProtoline_accepted hv hn hval hfit hc))

/-! ## Pixels -/

/-- `WRITE_PIXEL` inside the picture stores the one byte (R303). -/
theorem State.hostReady.exec_writePixel {s : State} (hs : s.hostReady) {x y color : Nat} (hx : x < s.cfg.width)
    (hy : y < s.cfg.height) (hc : color < 256) :
    ∃ t, exec (.writePixel x y color) s = .next t ∧ s.storedBy t (s.cfg.pix x y) [BitVec.ofNat 8 color] ∧
      t.block = { s.block with movePending := false } := by
  obtain ⟨-, -, hfit⟩ := Cfg.pix_fits hs.1 hx hy
  have hv : s.beginOp.cfg.valid = true := hs.1
  exact hs.exec_stores (List.cons_ne_nil _ _) (Nat.succ_le_of_lt hfit)
    (congrArg finishCode (State.opWritePixel_accepted hv hx hy hc))

/-- Settles O25: R303's address is R295's. -/
theorem pixelOpStoresItsColor : Obligations.PixelOpStoresItsColor :=
  fun _ _ _ _ hs hx hy hc => hs.exec_writePixel hx hy hc

/-- With no `HOST_RESET` on its way, none comes to be on its way in a host op (R501). -/
theorem State.noReset_hostRelation : HostRelation fun s t => s.hostResetIn = none → t.hostResetIn = none where
  refl _ := id
  trans h g := g ∘ h
  send s i _ h := by
    obtain ⟨-, -, -, -, -, hr⟩ := s.sendFrame_host (frameBytes s.cfg.opmap i)
    rw [hr, h]
    rfl
  fail _ _ := id
  pending _ _ := id
  burst _ _ := id
  clip _ := id

theorem exec_noReset {i : Instr} {s t : State} (hi : i.isFrame = false) (h : exec i s = .next t)
    (hs : s.hostResetIn = none) : t.hostResetIn = none := by
  obtain ⟨r, hrun, ⟨q, hq, -⟩ | ⟨u, -, hu⟩⟩ := exec_host hi s
  · obtain rfl := Host.Outcome.next.inj (hq.symm.trans h)
    exact State.noReset_hostRelation.hostRun hrun hs
  · obtain rfl := Host.Outcome.next.inj (hu.symm.trans h)
    rfl

/-- The chip's settings for memory frames are registers (R36, R37). -/
theorem State.sameRegisters.memoryModeSet {s t : State} (h : s.sameRegisters t) (hs : s.memoryModeSet) :
    t.memoryModeSet := by
  obtain ⟨hregs, -, hcfg⟩ := h
  have hmode : t.chip.mode = s.chip.mode := (congrArg Chip.mode hregs :)
  have hmulti : t.chip.multiic = s.chip.multiic := (congrArg Chip.multiic hregs :)
  unfold State.memoryModeSet
  rwa [hmode, hmulti, hcfg]

/-- After a host op that stores and succeeds, the next one finds nothing in its way. -/
theorem State.hostReady.of_storedBy {s t : State} {a : Nat} {bs : List Byte} (hs : s.hostReady)
    (h : s.storedBy t a bs) (hblock : t.block = { s.block with movePending := false })
    (hreset : t.hostResetIn = none) : t.hostReady := by
  obtain ⟨hvalid, hmode, -, -⟩ := hs
  obtain ⟨-, hregs, hbusy, -, -⟩ := h
  have hcfg := hregs.2.2
  exact ⟨hcfg ▸ hvalid, hregs.memoryModeSet hmode, .inl ⟨congrArg Block.movePending hblock, hbusy⟩, hreset⟩

theorem State.settledMem_of_idle {s : State} (h : s.chip.busy = false) : s.settledMem = s.chip.mem := by
  simp [State.settledMem, h]

/-- Settles O27: the written state is ready for the read, and another pixel is another byte. -/
theorem pixelWrittenIsPixelRead : Obligations.PixelWrittenIsPixelRead := by
  intro s x y color hs hx hy hc
  obtain ⟨t, ht, hstored, hblock⟩ := hs.exec_writePixel hx hy hc
  have htReady : t.hostReady := hs.of_storedBy hstored hblock (exec_noReset rfl ht hs.2.2.2)
  obtain ⟨hmem, ⟨-, -, hcfg⟩, hbusy, -, -⟩ := hstored
  have htMem : t.settledMem = t.chip.mem := State.settledMem_of_idle hbusy
  have hbyte : Memory.read t.settledMem (t.cfg.pix x y) = some (BitVec.ofNat 8 color) := by
    rw [htMem, hcfg, hmem]
    simp
  have hx' : x < t.cfg.width := hcfg ▸ hx
  have hy' : y < t.cfg.height := hcfg ▸ hy
  have hv' : t.beginOp.cfg.valid = true := htReady.1
  obtain ⟨-, -, hfit⟩ := Cfg.pix_fits htReady.1 hx' hy'
  obtain ⟨u, hu, hres, humem, -⟩ :=
    htReady.exec_reads (i := .readPixel x y) hfit hbyte (congrArg finishValue (State.opReadPixel_accepted hv' hx' hy'))
  refine ⟨t, u, ht, hu, ?_, fun x' y' hx' hy' hne => ?_⟩
  · rw [hres, BitVec.toNat_ofNat, Nat.mod_eq_of_lt hc]
  · have hother : s.cfg.pix x' y' ≠ s.cfg.pix x y := fun h =>
      hne (Prod.ext_iff.mpr (s.cfg.pix_injective hx' hx h))
    rw [humem, htMem, hmem, if_neg]
    simp only [List.length_singleton]
    omega

end Sys2Proof.Machine

/-! SUPPORT. What `INIT` does, frame by frame: each frame of its sequence passes the chip's checks, so that the chip it
leaves is the sequence's register writes and stores, one after the other (R381–R393); and what the SRAM then holds is,
at each byte, what the last frame that stores there has stored. -/

namespace Sys2Proof

section Valid

variable {c : Cfg} (h : c.valid = true)
include h

/-- The picture's lines are lines of the frame (R260). -/
theorem Cfg.pictureLine_lt {r : Nat} (hr : r < c.height) : c.firstPicLine + r < c.totalLines := by
  obtain ⟨-, -, hle⟩ := Cfg.valid_size h
  unfold Cfg.firstPicLine
  omega

/-- The picture ends within the line (R258, R266). -/
theorem Cfg.picEnd_le : c.picEnd ≤ c.lineLen := by
  have hdiv : c.width * c.pixelClks ≤ c.activeClks := Nat.mul_div_le _ _
  obtain ⟨-, -, -, -, hblank, hactive⟩ := Cfg.valid_pulses h
  unfold Cfg.picEnd Cfg.picStart
  unfold Cfg.activeClks at *
  omega

/-- `INDEX_START` fits `INDEXSTART` (R291, R297). -/
theorem Cfg.indexStart_lt : c.indexStart < 131072 := by
  obtain ⟨hlines, -⟩ := Cfg.valid_lines h
  have hfit := Cfg.entryAddr_fits h (line := 0) hlines
  unfold Cfg.entryAddr at hfit
  omega

end Valid

end Sys2Proof

namespace Sys2Proof.Machine

/-! ## A frame that passes its checks -/

/-- What a frame writes to the chip, once the port's checks have let it pass (R200–R212). -/
def Chip.load (c : Chip) : Instr → Chip
  | .multiic d => { c with multiic := some d }
  | .wrsr _ => { c with mode := some 1 }
  | .write a data => { c with mem := Memory.write c.mem a.toNat data }
  | .picstart v => { c with picstart := some (v.extractLsb' 0 12) }
  | .picend v => { c with picend := some (v.extractLsb' 0 12) }
  | .linelen v => { c with linelen := some (v.extractLsb' 0 12) }
  | .vdctrl1 v => { c with vdctrl1 := some ⟨v.getLsbD 12, v.getLsbD 13⟩ }
  | .indexstart v => { c with indexstart := some (v.extractLsb' 0 17) }
  | .vdctrl2 v =>
    { c with enable := v.getLsbD 15, videoForm := some ⟨v.extractLsb' 0 10, v.extractLsb' 10 4, v.getLsbD 14⟩ }
  | .program v => { c with program := some v }
  | .bmc1 srcW dstW f =>
    { c with bmc1 := some ⟨srcW, dstW, f.getLsbD 0, f.getLsbD 1, f.getLsbD 2, f.getLsbD 4⟩ }
  | .bmc2 stride width hm1 => { c with bmc2 := some ⟨stride, width, hm1⟩ }
  | _ => c

/-- As `Chip.load`, with the transfer before it, after which `SELECT` is 0 (R161). -/
def Chip.accept (c : Chip) (i : Instr) : Chip := Chip.load { c with select := false } i

/-- The frame stores to the SRAM. -/
def isStore : Instr → Bool
  | .write _ _ => true
  | _ => false

/-- The operands of a frame pass the port's checks (R197, R198, R200, R201), and it neither reads nor starts a move. -/
def framePasses (c : Cfg) : Instr → Prop
  | .multiic d => d.toNat = c.multiicOff
  | .wrsr d => d = 0x40
  | .write a data => data ≠ [] ∧ a.toNat + data.length ≤ 131072
  | .picstart v | .picend v | .linelen v => reservedOf12 v = false
  | .vdctrl1 v => reservedOfVdctrl1 v = false
  | .indexstart v => reservedOfIndexstart v = false
  | .bmc1 _ _ f => reservedOfBmc1 f = false
  | .vdctrl2 _ | .program _ | .bmc2 _ _ _ => True
  | _ => False

theorem framePasses.wellFormed {c : Cfg} {i : Instr} (h : framePasses c i) : i.wellFormed = true := by
  cases i with
  | write a data => simpa [Instr.wellFormed] using h.1
  | read => exact h.elim
  | _ => rfl

theorem framePasses.isFrame {c : Cfg} {i : Instr} (h : framePasses c i) : i.isFrame = true := by
  cases i <;> first | rfl | exact h.elim

theorem framePasses.encodes {c : Cfg} {i : Instr} (h : framePasses c i) : Laws.EncodesItsFormat.Statement i := by
  cases i with
  | multiic d => exact Laws.EncodesItsFormat.multiic d
  | wrsr d => exact Laws.EncodesItsFormat.wrsr d
  | write a data => exact Laws.EncodesItsFormat.write a data
  | picstart v => exact Laws.EncodesItsFormat.picstart v
  | picend v => exact Laws.EncodesItsFormat.picend v
  | linelen v => exact Laws.EncodesItsFormat.linelen v
  | vdctrl1 v => exact Laws.EncodesItsFormat.vdctrl1 v
  | indexstart v => exact Laws.EncodesItsFormat.indexstart v
  | vdctrl2 v => exact Laws.EncodesItsFormat.vdctrl2 v
  | program v => exact Laws.EncodesItsFormat.program v
  | bmc1 srcW dstW f => exact Laws.EncodesItsFormat.bmc1 srcW dstW f
  | bmc2 stride width hm1 => exact Laws.EncodesItsFormat.bmc2 stride width hm1
  | _ => exact h.elim

/-- A register frame whose check passes does its write and records nothing (R190). -/
theorem State.registerFrame_passes (s : State) (n : Nat) (c : Cmd) {fault : Option ChipFault} (h : fault = none)
    (w : Chip) : (s.registerFrame n c fault w).chip = w ∧ (s.registerFrame n c fault w).faults = s.faults := by
  subst h
  exact ⟨rfl, rfl⟩

theorem reservedFault_false {bad : Bool} (h : bad = false) : reservedFault bad = none := by
  rw [h]
  rfl

/-- A `WRITE` frame inside the SRAM, on an idle chip that is set for it, stores its bytes (R205). -/
theorem State.portWrite_passes {s : State} {a : BitVec 24} {data : List Byte} (hb : s.chip.busy = false)
    (hm : s.memoryModeSet) (hne : data ≠ []) (hfit : a.toNat + data.length ≤ 131072) :
    (s.portWrite a data).chip = s.chip.load (.write a data) ∧ (s.portWrite a data).faults = s.faults := by
  have hnone := (s.memoryFault_eq_none a (List.length_pos_iff.mpr hne)).mpr ⟨hm, hb, hfit⟩
  have hport : s.portWrite a data =
      (s.setMem (Memory.write s.chip.mem a.toNat data)).respondDraws (4 + data.length) := by
    simp [State.portWrite, hne, hnone]
  rw [hport]
  exact ⟨rfl, rfl⟩

/-- The port's step for a frame that passes its checks: the frame's write, and no fault (R190). -/
theorem State.portInstr_passes {s : State} {i : Instr} (hi : framePasses s.cfg i) (hb : s.chip.busy = false)
    (hm : isStore i = true → s.memoryModeSet) :
    (s.portInstr i).chip = s.chip.load i ∧ (s.portInstr i).faults = s.faults := by
  cases i with
  | multiic d => exact s.registerFrame_passes _ _ (if_neg (not_not.mpr hi)) _
  | wrsr d =>
    obtain rfl : d = 0x40 := hi
    exact s.registerFrame_passes _ .wrsr rfl _
  | write a data => exact State.portWrite_passes hb (hm rfl) hi.1 hi.2
  | picstart | picend | linelen | vdctrl1 | indexstart | bmc1 =>
    exact s.registerFrame_passes _ _ (reservedFault_false hi) _
  | vdctrl2 => exact s.registerFrame_passes _ .vdctrl2 rfl _
  | program => exact s.registerFrame_passes _ .program rfl _
  | bmc2 => exact s.registerFrame_passes _ .bmc2 rfl _
  | _ => exact hi.elim

/-! ## Frames sent one after the other -/

/-- Between the frames of a host op with nothing in its way: no move runs, and no `HOST_RESET` is on its way. -/
def State.linkIdle (s : State) : Prop :=
  s.cfg.opmap.injective = true ∧ s.hostResetIn = none ∧ s.chip.busy = false

/-- `t` is what the frames of `is`, sent one after the other, all of which pass, make of `s`. -/
structure State.HasSent (s : State) (is : List Instr) (t : State) : Prop where
  chip : t.chip = is.foldl Chip.accept s.chip
  faults : t.faults = s.faults
  cfg : t.cfg = s.cfg
  block : t.block = s.block
  noReset : t.hostResetIn = none
  sent : t.sent = s.sent ++ is.map (frameBytes s.cfg.opmap)

@[simp] theorem Chip.accept_busy (c : Chip) (i : Instr) : (c.accept i).busy = c.busy := by
  cases i <;> rfl

@[simp] theorem Chip.foldl_accept_busy (is : List Instr) (c : Chip) : (is.foldl Chip.accept c).busy = c.busy := by
  induction is generalizing c with
  | nil => rfl
  | cons i is ih => exact (ih _).trans (c.accept_busy i)

theorem State.HasSent.linkIdle {s t : State} {is : List Instr} (h : s.HasSent is t) (hs : s.linkIdle) :
    t.linkIdle := by
  obtain ⟨hm, -, hb⟩ := hs
  refine ⟨h.cfg ▸ hm, h.noReset, ?_⟩
  rw [h.chip, Chip.foldl_accept_busy, hb]

theorem State.HasSent.trans {s t u : State} {is js : List Instr} (h : s.HasSent is t) (g : t.HasSent js u) :
    s.HasSent (is ++ js) u where
  chip := by rw [List.foldl_append, ← h.chip, g.chip]
  faults := g.faults.trans h.faults
  cfg := g.cfg.trans h.cfg
  block := g.block.trans h.block
  noReset := g.noReset
  sent := by rw [g.sent, h.sent, h.cfg, List.map_append, List.append_assoc]

/-- One frame sent that passes its checks (R161, R190). -/
theorem State.emit_passes {s : State} {i : Instr} (hs : s.linkIdle) (hi : framePasses s.cfg i)
    (hm : isStore i = true → s.memoryModeSet) : ∃ r t, s.emit i = .ok r t ∧ s.HasSent [i] t := by
  obtain ⟨hmap, hreset, hb⟩ := hs
  obtain ⟨hcfg, hblock, hsent, -, -, hr⟩ := s.sendFrame_host (frameBytes s.cfg.opmap i)
  have hsend := State.sendFrame_instr hmap hi.encodes hi.wellFormed hi.isFrame
  obtain ⟨hchip, hfaults⟩ :=
    State.portInstr_passes (s := s.transfer (frameBytes s.cfg.opmap i)) (by rw [State.transfer_idle hb]; exact hi)
      (by rw [State.transfer_idle hb]; exact hb) (by rw [State.transfer_idle hb]; exact hm)
  refine ⟨_, _, State.emit_eq (by simp [hreset]) i, ?_, ?_, hcfg, hblock, by rw [hr, hreset]; rfl, hsent⟩
  · rw [hsend]
    refine hchip.trans ?_
    rw [State.transfer_idle hb]
    rfl
  · rw [hsend]
    refine hfaults.trans ?_
    rw [State.transfer_idle hb]

/-- No frame that passes its checks takes the chip's settings for memory frames away (R194, R195). -/
theorem State.HasSent.memoryModeSet {s t : State} {i : Instr} (h : s.HasSent [i] t) (hi : framePasses s.cfg i)
    (hs : s.memoryModeSet) : t.memoryModeSet := by
  obtain ⟨hmode, hmulti⟩ := hs
  have hchip : t.chip = s.chip.accept i := h.chip
  unfold State.memoryModeSet
  rw [hchip, h.cfg]
  cases i with
  | multiic d => exact ⟨hmode, congrArg some hi⟩
  | wrsr d => exact ⟨rfl, hmulti⟩
  | _ => exact ⟨hmode, hmulti⟩

/-- Frames that all pass are all sent, one after the other: to a chip that is set for memory frames, or with no store
among them (R161, R190). -/
theorem State.emitAll_passes {is : List Instr} {s : State} (hs : s.linkIdle) (his : ∀ i ∈ is, framePasses s.cfg i)
    (hm : s.memoryModeSet ∨ ∀ i ∈ is, isStore i = false) :
    ∃ t, State.emitAll is s = .ok () t ∧ s.HasSent is t ∧ (s.memoryModeSet → t.memoryModeSet) := by
  induction is generalizing s with
  | nil => exact ⟨s, rfl, ⟨rfl, rfl, rfl, rfl, hs.2.1, by simp⟩, id⟩
  | cons i is ih =>
    obtain ⟨hi, his⟩ := List.forall_mem_cons.mp his
    have store : isStore i = true → s.memoryModeSet := fun h => hm.resolve_right fun hno => by
      simp [hno i List.mem_cons_self] at h
    obtain ⟨r, t, hemit, hsent⟩ := State.emit_passes hs hi store
    have hm' : t.memoryModeSet ∨ ∀ j ∈ is, isStore j = false :=
      hm.imp (hsent.memoryModeSet hi) fun h => (List.forall_mem_cons.mp h).2
    obtain ⟨u, hrun, hrest, hmode⟩ := ih (hsent.linkIdle hs) (hsent.cfg.symm ▸ his) hm'
    exact ⟨u, by rw [State.emitAll, hemit, Run.andThen_ok, hrun], hsent.trans hrest,
      fun h => hmode (hsent.memoryModeSet hi h)⟩

theorem State.emitAll_append (is js : List Instr) (s : State) :
    State.emitAll (is ++ js) s = (State.emitAll is s).andThen fun _ t => State.emitAll js t := by
  induction is generalizing s with
  | nil => rfl
  | cons i is ih =>
    simp only [List.cons_append, State.emitAll]
    cases s.emit i with
    | ok r t => exact ih t
    | err e t => rfl
    | cut t => rfl

/-! ## The sequence of `INIT` passes -/

/-- A run of words inside one protoline, as a frame. -/
def fillsProtoline (c : Cfg) (i : Instr) : Prop :=
  ∃ n offset count v, n < c.numProtolines ∧ 0 < count ∧ offset + count ≤ c.lineLen ∧
    i = fillFrame (c.protoByte n + 2 * offset) count v

/-- What follows the first step of the sequence, up to and with the colour burst (R382–R385). -/
def initFill (c : Cfg) : List Instr :=
  [zeroFrame 0 131072] ++ initTable c ++ (initTemplate c ++ [burstFrame c true])

theorem initBefore_eq (c : Cfg) : initBefore c = initStart c ++ initFill c := by
  simp only [initBefore, initFill, List.append_assoc]

theorem reservedOf12_ofNat {n : Nat} (hn : n < 4096) : reservedOf12 (BitVec.ofNat 16 n) = false := by
  have hz : (BitVec.ofNat 16 n).extractLsb' 12 4 = 0 := by
    apply BitVec.eq_of_toNat_eq
    rw [BitVec.extractLsb'_toNat, Nat.shiftRight_eq_div_pow]
    simp only [BitVec.toNat_ofNat, BitVec.ofNat_eq_ofNat]
    omega
  simp [reservedOf12, hz]

theorem reservedOfIndexstart_ofNat {n : Nat} (hn : n < 131072) :
    reservedOfIndexstart (BitVec.ofNat 32 n) = false := by
  have hz : (BitVec.ofNat 32 n).extractLsb' 17 15 = 0 := by
    apply BitVec.eq_of_toNat_eq
    rw [BitVec.extractLsb'_toNat, Nat.shiftRight_eq_div_pow]
    simp only [BitVec.toNat_ofNat, BitVec.ofNat_eq_ofNat]
    omega
  simp [reservedOfIndexstart, hz]

theorem initStart_noStore (c : Cfg) : ∀ i ∈ initStart c, isStore i = false := by
  simp [initStart, isStore]

theorem zeroFrame_passes (c : Cfg) {a count : Nat} (hc : 0 < count) (ha : a < 131072) (hfit : a + count ≤ 131072) :
    framePasses c (zeroFrame a count) := by
  refine ⟨List.ne_nil_of_length_pos (by rwa [List.length_replicate]), ?_⟩
  rw [toNat_ofNat_address ha, List.length_replicate]
  exact hfit

/-- A vsync protoline is three runs of words inside it (R387). -/
theorem initVsync_fills {c : Cfg} {n a b : Nat} (hn : n < c.numProtolines) (ha : 0 < a ∧ a ≤ c.lineLen)
    (hb : 0 < b ∧ c.halfLine + b ≤ c.lineLen) : ∀ i ∈ initVsync c n a b, fillsProtoline c i := by
  unfold initVsync
  rw [List.forall_mem_cons, List.forall_mem_cons, List.forall_mem_singleton]
  exact ⟨⟨n, 0, _, _, hn, by omega, by omega, rfl⟩, ⟨n, 0, _, _, hn, ha.1, by omega, rfl⟩,
    ⟨n, _, _, _, hn, hb.1, hb.2, rfl⟩⟩

section Valid

variable {c : Cfg} (h : c.valid = true)
include h

theorem fillsProtoline.passes {i : Instr} (hi : fillsProtoline c i) : framePasses c i := by
  obtain ⟨n, offset, count, v, hn, hc, hfit, rfl⟩ := hi
  have hwords := Cfg.protoline_words_fit h hn hfit
  have hlen := repeatWord_length count (BitVec.ofNat 16 v)
  refine ⟨List.ne_nil_of_length_pos (by omega), ?_⟩
  rw [toNat_ofNat_address (by omega), hlen]
  exact hwords

theorem entryFrame_passes {line : Nat} (hl : line < c.totalLines) {e : List Byte} (he : e.length = 3) :
    framePasses c (entryFrame (c.entryAddr line) e) := by
  have hfit := Cfg.entryAddr_fits h hl
  refine ⟨List.ne_nil_of_length_pos (by omega), ?_⟩
  rw [toNat_ofNat_address (by omega), he]
  exact hfit

theorem initStart_passes : ∀ i ∈ initStart c, framePasses c i := by
  have hstop := Cfg.picEnd_le h
  have hlen := Cfg.valid_lineLen h
  have hstart : c.picStart ≤ c.picEnd := Nat.le_add_right _ _
  obtain ⟨-, -, -, -, -, hoff, -⟩ := Cfg.valid_levels h
  rw [initStart]
  simp only [List.forall_mem_cons]
  refine ⟨?_, rfl, reservedOf12_ofNat (by omega), reservedOf12_ofNat (by omega), rfl, nofun⟩
  exact (BitVec.toNat_ofNat _ _).trans (Nat.mod_eq_of_lt hoff)

/-- `INIT` builds at least protolines 0 to 2 (R389). -/
theorem three_le_numProtolines : 3 ≤ c.numProtolines := by
  obtain ⟨-, hbuilt, -⟩ := Cfg.valid_protolines h
  refine Nat.le_trans ?_ hbuilt
  unfold Cfg.builtProtolines
  split <;> omega

/-- The template of protoline 0 and its burst window (R384, R385). -/
theorem initTemplate_fills : ∀ i ∈ initTemplate c ++ [burstFrame c true], fillsProtoline c i := by
  obtain ⟨hsync, hsb, hburst, hbb, hblank, hactive⟩ := Cfg.valid_pulses h
  have hn := three_le_numProtolines h
  have fills (offset count v : Nat) (hc : 0 < count) (hfit : offset + count ≤ c.lineLen) :
      fillsProtoline c (fillFrame (c.protoByte 0 + 2 * offset) count v) :=
    ⟨0, offset, count, v, by omega, hc, hfit, rfl⟩
  have blank := fills 0 c.lineLen c.blankLevel (by omega) (by omega)
  have sync := fills 0 c.syncClks c.syncLevel (by omega) (by omega)
  have black := fills c.blankEnd (c.activeEnd - c.blankEnd) c.blackLevel (by omega) (by omega)
  have burst : fillsProtoline c (burstFrame c true) :=
    fills c.burstStart (c.burstEnd - c.burstStart) c.burstLevel (by omega) (by omega)
  unfold initTemplate
  cases c.std <;> simp only [List.forall_mem_append, List.forall_mem_cons]
  case pal => exact ⟨⟨⟨blank, sync, nofun⟩, nofun⟩, burst, nofun⟩
  case ntsc => exact ⟨⟨⟨blank, sync, nofun⟩, black, nofun⟩, burst, nofun⟩

theorem initProtolines_fills : ∀ i ∈ initProtolines c, fillsProtoline c i := by
  obtain ⟨hs, hshalf, hl, hlhalf, hfit⟩ := Cfg.valid_vsync h
  have hhalf : 2 * c.halfLine ≤ c.lineLen := Nat.mul_div_le _ _
  have hn := three_le_numProtolines h
  have first : ∀ i ∈ initVsync c 1 c.shortClks c.shortClks, fillsProtoline c i :=
    initVsync_fills (by omega) ⟨by omega, by omega⟩ ⟨by omega, by omega⟩
  have second : ∀ i ∈ initVsync c 2 c.longClks c.longClks, fillsProtoline c i :=
    initVsync_fills (by omega) ⟨by omega, by omega⟩ ⟨by omega, by omega⟩
  have third (hfour : 3 < c.numProtolines) : ∀ i ∈ initVsync c 3 c.longClks c.shortClks, fillsProtoline c i :=
    initVsync_fills hfour ⟨by omega, by omega⟩ ⟨by omega, by omega⟩
  obtain ⟨-, hbuilt, -⟩ := Cfg.valid_protolines h
  unfold Cfg.builtProtolines at hbuilt
  unfold initProtolines
  cases hstd : c.std <;> simp only [hstd, List.forall_mem_append] at hbuilt ⊢
  case pal => exact ⟨⟨first, second⟩, third hbuilt⟩
  case ntsc => exact ⟨⟨first, second⟩, nofun⟩

theorem initTable_passes : ∀ i ∈ initTable c, framePasses c i := by
  have hlen := Cfg.valid_lineLen h
  unfold initTable
  rw [List.forall_mem_append, List.forall_mem_map]
  refine ⟨?_, fun line hl => entryFrame_passes h (List.mem_range.mp hl) rfl⟩
  simp only [List.forall_mem_cons]
  exact ⟨reservedOf12_ofNat (by omega), trivial, reservedOfIndexstart_ofNat (Cfg.indexStart_lt h), nofun⟩

theorem initFill_passes : ∀ i ∈ initFill c, framePasses c i := by
  unfold initFill
  rw [List.forall_mem_append, List.forall_mem_append, List.forall_mem_singleton]
  exact ⟨⟨zeroFrame_passes c (by omega) (by omega) (by omega), initTable_passes h⟩,
    fun i hi => (initTemplate_fills h i hi).passes h⟩

theorem initEnd_passes : ∀ i ∈ initEnd c, framePasses c i := by
  obtain ⟨-, -, -, -, -, -, hlpf⟩ := Cfg.valid_levels h
  have hflags : reservedOfBmc1 (BitVec.ofNat 8 (c.lpfEnable <<< 4)) = false := by
    obtain h0 | h1 : c.lpfEnable = 0 ∨ c.lpfEnable = 1 := by omega
    · rw [h0]
      rfl
    · rw [h1]
      rfl
  unfold initEnd
  rw [List.forall_mem_cons, List.forall_mem_singleton]
  exact ⟨hflags, trivial⟩

theorem initFrameTable_passes : ∀ i ∈ initFrameTable c, framePasses c i := by
  unfold initFrameTable
  rw [List.forall_mem_map]
  intro e he
  obtain ⟨hl, -⟩ := (Cfg.valid_frameTable h).1 e he
  exact entryFrame_passes h hl rfl

theorem initPicture_passes : ∀ i ∈ initPicture c, framePasses c i := by
  unfold initPicture
  rw [List.forall_mem_map]
  exact fun r hr => entryFrame_passes h (Cfg.pictureLine_lt h (List.mem_range.mp hr)) rfl

theorem initAfter_passes : ∀ i ∈ initAfter c, framePasses c i := by
  unfold initAfter
  rw [List.forall_mem_append, List.forall_mem_append, List.forall_mem_append]
  exact ⟨⟨⟨fun i hi => (initProtolines_fills h i hi).passes h, initFrameTable_passes h⟩, initPicture_passes h⟩,
    initEnd_passes h⟩

end Valid

/-- The first step of the sequence sets the chip for memory frames (R381). -/
theorem State.HasSent.memoryModeSet_of_initStart {s t : State} (h : s.HasSent (initStart s.cfg) t)
    (hoff : s.cfg.multiicOff < 256) : t.memoryModeSet := by
  unfold State.memoryModeSet
  rw [h.chip, h.cfg]
  refine ⟨rfl, ?_⟩
  change some (BitVec.ofNat 8 s.cfg.multiicOff).toNat = _
  rw [BitVec.toNat_ofNat, Nat.mod_eq_of_lt hoff]

/-- What frames make of a chip does not depend on `SELECT` before the first of them (R161). -/
theorem foldl_accept_congr {is : List Instr} (hne : is ≠ []) {k k' : Chip}
    (h : { k with select := false } = { k' with select := false }) :
    is.foldl Chip.accept k = is.foldl Chip.accept k' := by
  obtain ⟨i, is, rfl⟩ := List.exists_cons_of_ne_nil hne
  simp only [List.foldl_cons, Chip.accept, h]

theorem initFrames_ne_nil (c : Cfg) : initFrames c ≠ [] := by
  simp [initFrames, initBefore, initStart]

/-- The first part of the sequence, on an idle link, whatever the chip's settings are (R381–R385). -/
theorem State.emitAll_initBefore {s : State} (hs : s.linkIdle) (hv : s.cfg.valid = true) :
    ∃ t, State.emitAll (initBefore s.cfg) s = .ok () t ∧ s.HasSent (initBefore s.cfg) t ∧ t.memoryModeSet := by
  obtain ⟨-, -, -, -, -, hoff, -⟩ := Cfg.valid_levels hv
  obtain ⟨t, hstart, ht, -⟩ := State.emitAll_passes hs (initStart_passes hv) (.inr (initStart_noStore _))
  have hmode := ht.memoryModeSet_of_initStart hoff
  obtain ⟨u, hfill, hu, hmode'⟩ :=
    State.emitAll_passes (ht.linkIdle hs) (by rw [ht.cfg]; exact initFill_passes hv) (.inl hmode)
  rw [initBefore_eq, State.emitAll_append, hstart, Run.andThen_ok]
  exact ⟨u, hfill, ht.trans hu, hmode' hmode⟩

/-- What `INIT` does where its drain succeeds (R380–R393): its whole sequence passes, `BURST_ON` is set, and the chip is
what the sequence makes of the drained one. -/
theorem State.opInit_ok {s : State} (hv : s.cfg.valid = true) (hd : s.drains) (hr : s.hostResetIn = none) :
    ∃ t k, s.opInit = .ok () t ∧ t.chip = (initFrames s.cfg).foldl Chip.accept s.idleChip ∧ t.faults = s.faults ∧
      t.cfg = s.cfg ∧ t.block = { s.block with movePending := false, burstOn := true } ∧ t.hostResetIn = none ∧
      t.memoryModeSet ∧
      t.sent = s.sent ++ List.replicate k (statusBytes s.cfg.opmap) ++
        (initFrames s.cfg).map (frameBytes s.cfg.opmap) := by
  have hmap := Cfg.valid_injective hv
  obtain ⟨-, -, -, hlimit⟩ := Cfg.valid_moveLimits hv
  obtain ⟨t, k, hdrain, hcfg, hchip, hblock, hfaults, hreset, -, hsent⟩ := State.drain_ok hmap hlimit hr hd
  have hbusy : t.chip.busy = false := (congrArg Chip.busy hchip).trans s.idleChip_busy
  have ht : t.linkIdle := ⟨hcfg ▸ hmap, hreset, hbusy⟩
  obtain ⟨u, hbefore, hu, hmode⟩ := State.emitAll_initBefore ht (hcfg ▸ hv)
  have hidle : (u.setBurstOn true).linkIdle := hu.linkIdle ht
  have hpasses : ∀ i ∈ initAfter u.cfg, framePasses (u.setBurstOn true).cfg i :=
    initAfter_passes (hu.cfg.trans hcfg ▸ hv)
  obtain ⟨w, hafter, hw, hmode'⟩ := State.emitAll_passes hidle hpasses (.inl hmode)
  have hucfg : u.cfg = s.cfg := hu.cfg.trans hcfg
  refine ⟨w, k, ?_, ?_, ?_, hw.cfg.trans hucfg, ?_, hw.noReset, hmode' hmode, ?_⟩
  · simp only [State.opInit, hv, Bool.not_true, Bool.false_eq_true, if_false, hdrain, Run.andThen_ok, hbefore, hafter]
  · have hsel : { t.chip with select := false } = { s.idleChip with select := false } := hchip
    rw [← foldl_accept_congr (initFrames_ne_nil _) hsel, initFrames, List.foldl_append, ← hcfg, ← hu.chip, ← hu.cfg]
    exact hw.chip
  · exact hw.faults.trans (hu.faults.trans hfaults)
  · exact hw.block.trans (congrArg (fun b => { b with burstOn := true }) (hu.block.trans hblock))
  · refine hw.sent.trans ?_
    change u.sent ++ (initAfter u.cfg).map (frameBytes u.cfg.opmap) = _
    rw [hu.sent, hsent, hucfg, hcfg, initFrames, List.map_append, List.append_assoc, List.append_assoc]

end Sys2Proof.Machine

/-! SUPPORT. The bytes of the SRAM after a sequence of frames that pass, and the index table after `INIT` (R308). -/

namespace Sys2Proof.Machine

/-! ## The byte a sequence of frames stores -/

/-- The byte a frame stores at an address, none where it stores none there. -/
def byteStoredAt (x : Nat) : Instr → Option Byte
  | .write a data => if a.toNat ≤ x then data[x - a.toNat]? else none
  | _ => none

/-- The byte that the last of the frames which store at an address stores there. -/
def lastStoredAt (x : Nat) (is : List Instr) : Option Byte := is.reverse.findSome? (byteStoredAt x)

theorem Chip.read_accept (c : Chip) (i : Instr) (x : Nat) :
    Memory.read (c.accept i).mem x = (byteStoredAt x i).or (Memory.read c.mem x) := by
  cases i with
  | write a data =>
    refine (Memory.read_write _ _ _ _).trans ?_
    simp only [byteStoredAt]
    by_cases ha : a.toNat ≤ x
    · by_cases hx : x < a.toNat + data.length
      · simp [ha, hx, List.getElem?_eq_getElem (show x - a.toNat < data.length by omega)]
      · simp [ha, hx, List.getElem?_eq_none (show data.length ≤ x - a.toNat by omega)]
    · simp [ha]
  | _ => rfl

@[simp] theorem lastStoredAt_append (x : Nat) (is js : List Instr) :
    lastStoredAt x (is ++ js) = (lastStoredAt x js).or (lastStoredAt x is) := by
  simp only [lastStoredAt, List.reverse_append, List.findSome?_append]

theorem Chip.read_foldl_accept (is : List Instr) (c : Chip) (x : Nat) :
    Memory.read (is.foldl Chip.accept c).mem x = (lastStoredAt x is).or (Memory.read c.mem x) := by
  induction is generalizing c with
  | nil => rfl
  | cons i is ih =>
    rw [List.foldl_cons, ih, Chip.read_accept, ← Option.or_assoc, ← List.singleton_append, lastStoredAt_append]
    simp [lastStoredAt]

theorem lastStoredAt_eq_none {x : Nat} {is : List Instr} (h : ∀ i ∈ is, byteStoredAt x i = none) :
    lastStoredAt x is = none :=
  List.findSome?_eq_none_iff.mpr fun i hi => h i (List.mem_reverse.mp hi)

/-- A frame stores at the address, and so does no other frame with another byte. -/
theorem lastStoredAt_eq_some {x : Nat} {b : Byte} {is : List Instr} (hex : ∃ i ∈ is, byteStoredAt x i = some b)
    (hall : ∀ i ∈ is, byteStoredAt x i = none ∨ byteStoredAt x i = some b) : lastStoredAt x is = some b := by
  obtain ⟨i, hi, hb⟩ := hex
  cases hlast : lastStoredAt x is with
  | none =>
    have := List.findSome?_eq_none_iff.mp hlast i (List.mem_reverse.mpr hi)
    simp [hb] at this
  | some b' =>
    obtain ⟨j, hj, hb'⟩ := List.exists_of_findSome?_eq_some hlast
    rcases hall j (List.mem_reverse.mp hj) with hno | hyes
    · simp [hno] at hb'
    · exact hb'.symm.trans hyes

/-! ## The index table after `INIT` -/

section Valid

variable {c : Cfg} (h : c.valid = true)
include h

/-- The three bytes of an entry frame are those of its own line (R291). -/
theorem byteStoredAt_entryFrame {l line i : Nat} {e : List Byte} (hl : l < c.totalLines) (he : e.length = 3)
    (hi : i < 3) :
    byteStoredAt (c.entryAddr line + i) (entryFrame (c.entryAddr l) e) = if l = line then e[i]? else none := by
  have hfit := Cfg.entryAddr_fits h hl
  simp only [byteStoredAt, entryFrame, toNat_ofNat_address (show c.entryAddr l < 131072 by omega)]
  unfold Cfg.entryAddr
  by_cases heq : l = line
  · subst heq
    simp
  · rw [if_neg heq]
    split
    · exact List.getElem?_eq_none (by omega)
    · rfl

/-- No frame that fills words of a protoline stores in the index table (R297). -/
theorem fillsProtoline.byteStoredAt_eq_none {i : Instr} (hi : fillsProtoline c i) {x : Nat} (hx : c.indexStart ≤ x) :
    byteStoredAt x i = none := by
  obtain ⟨n, offset, count, v, hn, hc, hfit, rfl⟩ := hi
  obtain ⟨hend, hindex⟩ := Cfg.protoline_fits h hn
  have hlen := repeatWord_length count (BitVec.ofNat 16 v)
  simp only [byteStoredAt, fillFrame, toNat_ofNat_address (show c.protoByte n + 2 * offset < 131072 by omega)]
  split
  · exact List.getElem?_eq_none (by omega)
  · rfl

/-- Entry frames, no two of which name one line with two entries: the bytes of a line that one of them names are its
entry's. -/
theorem lastStoredAt_entries {α : Type} {l : List α} {line : α → Nat} {e : α → List Byte}
    (hline : ∀ a ∈ l, line a < c.totalLines) (he : ∀ a, (e a).length = 3)
    (hone : ∀ a ∈ l, ∀ b ∈ l, line a = line b → e a = e b) {a : α} (ha : a ∈ l) {i : Nat} (hi : i < 3) :
    lastStoredAt (c.entryAddr (line a) + i) (l.map fun b => entryFrame (c.entryAddr (line b)) (e b)) = (e a)[i]? := by
  have hsome : (e a)[i]? = some ((e a)[i]'(by rw [he]; exact hi)) := List.getElem?_eq_getElem _
  rw [hsome]
  refine lastStoredAt_eq_some ⟨_, List.mem_map_of_mem ha, ?_⟩ (List.forall_mem_map.mpr fun b hb => ?_)
  · rw [byteStoredAt_entryFrame h (hline a ha) (he a) hi, if_pos rfl, hsome]
  · rw [byteStoredAt_entryFrame h (hline b hb) (he b) hi]
    split
    · next heq => exact .inr ((congrArg (·[i]?) (hone b hb a ha heq)).trans hsome)
    · exact .inl rfl

/-- As `lastStoredAt_entries`, for a line that none of them names. -/
theorem lastStoredAt_entries_eq_none {α : Type} {l : List α} {line : α → Nat} {e : α → List Byte}
    (hline : ∀ a ∈ l, line a < c.totalLines) (he : ∀ a, (e a).length = 3) {k : Nat} (hk : ∀ a ∈ l, line a ≠ k)
    {i : Nat} (hi : i < 3) :
    lastStoredAt (c.entryAddr k + i) (l.map fun b => entryFrame (c.entryAddr (line b)) (e b)) = none :=
  lastStoredAt_eq_none <| List.forall_mem_map.mpr fun a ha => by
    rw [byteStoredAt_entryFrame h (hline a ha) (he a) hi, if_neg (hk a ha)]

/-- Step 5 clears every entry, and the rest of the first part leaves the table alone (R383–R385). -/
theorem lastStoredAt_initBefore {line i : Nat} (hl : line < c.totalLines) (hi : i < 3) :
    lastStoredAt (c.entryAddr line + i) (initBefore c) = (encProto 0)[i]? := by
  have hclear := lastStoredAt_entries h (l := List.range c.totalLines) (line := id) (e := fun _ => encProto 0)
    (fun _ ha => List.mem_range.mp ha) (fun _ => rfl) (fun _ _ _ _ _ => rfl) (List.mem_range.mpr hl) hi
  have htemplate : lastStoredAt (c.entryAddr line + i) (initTemplate c ++ [burstFrame c true]) = none :=
    lastStoredAt_eq_none fun j hj =>
      (initTemplate_fills h j hj).byteStoredAt_eq_none h (Nat.le_add_right_of_le (Nat.le_add_right _ _))
  have hsome : (encProto 0)[i]? = some ((encProto 0)[i]'hi) := List.getElem?_eq_getElem hi
  have htable : lastStoredAt (c.entryAddr line + i) (initTable c) = (encProto 0)[i]? := by
    rw [initTable, lastStoredAt_append, hsome]
    rw [hsome] at hclear
    exact congrArg (Option.or · _) hclear
  rw [initBefore_eq, lastStoredAt_append, initFill, lastStoredAt_append, htemplate, lastStoredAt_append, htable, hsome]
  rfl

/-- Step 8 stores the entry of the protoline that the frame table names (R390). -/
theorem lastStoredAt_initFrameTable (line : Nat) {i : Nat} (hi : i < 3) :
    lastStoredAt (c.entryAddr line + i) (initFrameTable c) =
      (c.frameTable.find? fun e => e.1 == line).bind fun e => (encProto e.2)[i]? := by
  obtain ⟨hentries, hnodup⟩ := Cfg.valid_frameTable h
  have hline : ∀ e ∈ c.frameTable, e.1 < c.totalLines := fun e he => (hentries e he).1
  cases hfind : c.frameTable.find? fun e => e.1 == line with
  | none =>
    refine lastStoredAt_entries_eq_none h hline (fun _ => rfl) (fun e he => ?_) hi
    simpa using List.find?_eq_none.mp hfind e he
  | some e =>
    have hmem := List.mem_of_find?_eq_some hfind
    obtain rfl : e.1 = line := by simpa using List.find?_some hfind
    exact lastStoredAt_entries h hline (fun _ => rfl)
      (fun a ha b hb hab => congrArg (fun e => encProto e.2) (List.inj_on_of_nodup_map hnodup ha hb hab)) hmem hi

/-- Step 9 stores the entry of each picture row, and no other (R391). -/
theorem lastStoredAt_initPicture (line : Nat) {i : Nat} (hi : i < 3) :
    lastStoredAt (c.entryAddr line + i) (initPicture c) =
      if c.firstPicLine ≤ line ∧ line < c.firstPicLine + c.height then
        (encPic (c.row (line - c.firstPicLine)))[i]?
      else none := by
  have hline : ∀ r ∈ List.range c.height, c.firstPicLine + r < c.totalLines := fun r hr =>
    Cfg.pictureLine_lt h (List.mem_range.mp hr)
  split
  · next hpic =>
    obtain ⟨r, rfl⟩ := Nat.exists_eq_add_of_le hpic.1
    rw [Nat.add_sub_cancel_left]
    exact lastStoredAt_entries h hline (fun _ => rfl)
      (fun a _ b _ hab => congrArg (fun r => encPic (c.row r)) (Nat.add_left_cancel hab))
      (List.mem_range.mpr (by omega)) hi
  · next hpic =>
    refine lastStoredAt_entries_eq_none h hline (fun _ => rfl) (fun r hr => ?_) hi
    have := List.mem_range.mp hr
    omega

/-- The last store of the sequence at a byte of the index table: of steps 9, 8 and 5, the last that names the line
(R308). -/
theorem lastStoredAt_initFrames {line i : Nat} (hl : line < c.totalLines) (hi : i < 3) :
    lastStoredAt (c.entryAddr line + i) (initFrames c) =
      if c.firstPicLine ≤ line ∧ line < c.firstPicLine + c.height then
        (encPic (c.row (line - c.firstPicLine)))[i]?
      else (encProto (lineProtoline c line))[i]? := by
  have hprotolines : lastStoredAt (c.entryAddr line + i) (initProtolines c) = none :=
    lastStoredAt_eq_none fun j hj =>
      (initProtolines_fills h j hj).byteStoredAt_eq_none h (Nat.le_add_right_of_le (Nat.le_add_right _ _))
  have hend : lastStoredAt (c.entryAddr line + i) (initEnd c) = none := rfl
  have hpic (r : Nat) : (encPic r)[i]? = some ((encPic r)[i]'hi) := List.getElem?_eq_getElem hi
  have hproto (n : Nat) : (encProto n)[i]? = some ((encProto n)[i]'hi) := List.getElem?_eq_getElem hi
  rw [initFrames, lastStoredAt_append, initAfter, lastStoredAt_append, lastStoredAt_append, lastStoredAt_append, hend,
    lastStoredAt_initPicture h line hi, lastStoredAt_initFrameTable h line hi, hprotolines,
    lastStoredAt_initBefore h hl hi, lineProtoline, Option.none_or, Option.or_none]
  split
  · rw [hpic, Option.some_or, Option.some_or]
  · rw [Option.none_or]
    cases c.frameTable.find? fun e => e.1 == line with
    | none => rfl
    | some e =>
      change Option.or (encProto e.2)[i]? _ = (encProto e.2)[i]?
      rw [hproto, Option.some_or]

end Valid

/-- Settles O36: the table is read byte by byte off the sequence that `INIT` sends. -/
theorem initBuildsTheIndexTable : Obligations.InitBuildsTheIndexTable := by
  intro s hv hd hr
  obtain ⟨t, -, hrun, hchip, -⟩ := State.opInit_ok (s := s.beginOp) hv hd hr
  refine ⟨_, congrArg finishCode hrun, fun line i hl hi => ?_⟩
  have hread := Chip.read_foldl_accept (initFrames s.cfg) s.beginOp.idleChip (s.cfg.entryAddr line + i)
  rw [lastStoredAt_initFrames hv hl hi] at hread
  refine (congrArg (Memory.read ·.mem (s.cfg.entryAddr line + i)) hchip).trans (hread.trans (Option.or_of_isSome ?_))
  split <;> simp [hi]

end Sys2Proof.Machine

/-! SUPPORT. Proofs for the statements of spec/44_video_pattern.md: the microcode's `END` (R344), the colour-burst
toggle (R353), and a written pixel as the scan-out shows it (R342, R344). -/

namespace Sys2Proof

section Valid

variable {c : Cfg} (h : c.valid = true)
include h

/-- A row's address is no 0, which would mean no picture, and fits 17 bits (R294, R306). -/
theorem Cfg.row_range {y : Nat} (hy : y < c.height) : 0 < c.row y ∧ c.row y < 131072 := by
  obtain ⟨hwidth, -⟩ := Cfg.valid_size h
  obtain ⟨hlines, -⟩ := Cfg.valid_lines h
  obtain ⟨hstart, -, hfit⟩ := Cfg.pix_fits h hwidth hy
  unfold Cfg.pix at hstart hfit
  unfold Cfg.pictureStart Cfg.indexEnd at hstart
  omega

/-- A clock of the picture window is one of a pixel of the row (R258, R342). -/
theorem Cfg.pixel_lt {p : Nat} (hp : c.picStart ≤ p ∧ p < c.picEnd) : (p - c.picStart) / c.pixelClks < c.width := by
  obtain ⟨hclks, -⟩ := Cfg.valid_pixelClks h
  have hend : c.picEnd = c.picStart + c.width * c.pixelClks := rfl
  rw [Nat.div_lt_iff_lt_mul hclks]
  omega

end Valid

/-- The `PIXEL_CLKS` clocks of a pixel lie in the picture window, and are those of its column (R258, R342). -/
theorem Cfg.pixel_clock (c : Cfg) {x j : Nat} (hx : x < c.width) (hj : j < c.pixelClks) :
    (c.picStart ≤ c.picStart + x * c.pixelClks + j ∧ c.picStart + x * c.pixelClks + j < c.picEnd) ∧
    (c.picStart + x * c.pixelClks + j - c.picStart) / c.pixelClks = x := by
  have hcols : (x + 1) * c.pixelClks ≤ c.width * c.pixelClks := Nat.mul_le_mul_right _ hx
  have hend : c.picEnd = c.picStart + c.width * c.pixelClks := rfl
  rw [Nat.add_mul] at hcols
  refine ⟨by omega, ?_⟩
  rw [Nat.add_assoc, Nat.add_sub_cancel_left, Nat.mul_comm, Nat.mul_add_div (by omega), Nat.div_eq_of_lt hj,
    Nat.add_zero]

end Sys2Proof

namespace Sys2Proof.Machine

/-! ## The microcode's `END` -/

/-- What stands after an `END` op is never run (R344). -/
theorem runOps_append_end {op : Byte} (h : opPlane op = 3) (ops rest : List Byte) (px : Pixel) (d : Byte) :
    runOps (ops ++ op :: rest) px d = runOps (ops ++ [op]) px d := by
  induction ops generalizing px d with
  | nil => exact (runOps_cons_of_end h rest px d).trans (runOps_cons_of_end h [] px d).symm
  | cons o ops ih =>
    by_cases ho : opPlane o = 3
    · exact (runOps_cons_of_end ho _ px d).trans (runOps_cons_of_end ho _ px d).symm
    · exact (runOps_cons_of_ne_end ho _ px d).trans ((ih _ _).trans (runOps_cons_of_ne_end ho _ px d).symm)

/-- A program with an `END` in slot `k` runs its slots up to and with `k`, and no other (R344). -/
theorem ucode_of_end {p : Word} {k : Nat} (hk : k < 4) (h : opPlane (microOp p k) = 3) (b : Byte) :
    ucode p b = runOps ((List.range (k + 1)).map (microOp p)) ⟨0, 0, 0⟩ b := by
  have hslots : List.range 4 = List.range k ++ k :: (List.range 4).drop (k + 1) := by
    have hsplit := List.take_append_drop (k + 1) (List.range 4)
    rwa [List.take_range, Nat.min_eq_left hk, List.range_succ, List.append_assoc, List.singleton_append,
      eq_comm] at hsplit
  calc ucode p b
      = runOps ((List.range 4).map (microOp p)) ⟨0, 0, 0⟩ b := rfl
    _ = runOps ((List.range k).map (microOp p) ++ [microOp p k]) ⟨0, 0, 0⟩ b := by
      rw [hslots, List.map_append, List.map_cons, runOps_append_end h]
    _ = runOps ((List.range (k + 1)).map (microOp p)) ⟨0, 0, 0⟩ b := by
      rw [List.range_succ, List.map_append, List.map_singleton]

/-- Settles O58: both programs run the slots that they share, and no other. -/
theorem endSlotStopsTheProgram : Obligations.EndSlotStopsTheProgram := by
  intro p q b k hk heq hend
  have hslots : (List.range (k + 1)).map (microOp p) = (List.range (k + 1)).map (microOp q) :=
    List.map_congr_left fun j hj => heq j (Nat.le_of_lt_succ (List.mem_range.mp hj))
  rw [ucode_of_end hk hend, ucode_of_end hk (heq k (Nat.le_refl k) ▸ hend), hslots]

/-! ## The colour-burst toggle -/

/-- `SET_COLOR_BURST` with an argument inside its type (R353). -/
theorem State.opSetColorBurst_accepted {s : State} (hv : s.cfg.valid = true) {enable : Nat} (h : enable ≤ 1) :
    s.opSetColorBurst enable =
      (s.drainAndSend (burstFrame s.cfg (enable == 1))).andThen fun _ t => .ok () (t.setBurstOn (enable == 1)) := by
  simp [State.opSetColorBurst, hv, Nat.not_lt.mpr h]

/-- The burst window stands in protoline 0, the first of the SRAM (R290, R353). -/
theorem burstFrame_eq (c : Cfg) (on : Bool) :
    burstFrame c on = .write (BitVec.ofNat 24 (2 * c.burstStart))
      (repeatWord (c.burstEnd - c.burstStart) (BitVec.ofNat 16 (if on then c.burstLevel else c.blankLevel))) := by
  rw [burstFrame, fillFrame, Cfg.burstLen, Cfg.protoByte, Nat.mul_zero, Nat.zero_mul, Nat.zero_add]

/-- Settles O24: one `WRITE` frame after the drain, and then `BURST_ON`. -/
theorem colorBurstOpPaintsTheWindow : Obligations.ColorBurstOpPaintsTheWindow := by
  intro s enable level hs henable hlevel
  obtain ⟨-, hblank, -, hburst, -⟩ := Cfg.valid_levels hs.1
  obtain ⟨-, -, hwindow, hend, hactive, hline⟩ := Cfg.valid_pulses hs.1
  have hfits : s.cfg.lineLen ≤ 4095 := Cfg.valid_lineLen hs.1
  have hlt : level < 65536 := by
    rw [hlevel]
    split <;> assumption
  have hframe := burstFrame_eq s.cfg (enable == 1)
  simp only [beq_iff_eq, ← hlevel] at hframe
  have hlen := repeatWord_length (s.cfg.burstEnd - s.cfg.burstStart) (BitVec.ofNat 16 level)
  have hne : repeatWord (s.cfg.burstEnd - s.cfg.burstStart) (BitVec.ofNat 16 level) ≠ [] :=
    List.ne_nil_of_length_pos (by omega)
  obtain ⟨t, hrun, hstored, hblock⟩ := hs.drainAndSend_write (a := 2 * s.cfg.burstStart) hne (by omega)
  rw [← hframe] at hrun
  have hop := State.opSetColorBurst_accepted (s := s.beginOp) hs.1 henable
  rw [← bytes16_ofNat level hlt]
  refine ⟨{ t.setBurstOn (enable == 1) with result := some (.code .ok) }, ?_, hstored, ?_⟩
  · exact congrArg finishCode (hop.trans (congrArg (Run.andThen · _) hrun))
  · exact congrArg (fun b => { b with burstOn := enable == 1 }) hblock

/-! ## The scan-out -/

theorem State.shows_of_running {s : State} {r : ScanRegs} (h : s.chip.scanMode = .running r) {line p : Nat}
    (hl : line < r.lineCount) (hp : p < r.len) : s.shows line p = some (sample r s.chip.mem line p) := by
  simp [State.shows, h, hl, hp]

theorem Memory.scanByte_of_lt (m : Memory) {a : Nat} (ha : a < 131072) : Memory.scanByte m a = Memory.read m a := by
  rw [Memory.scanByte, Nat.mod_eq_of_lt ha]

/-- The scan-out's condition is a matter of the registers (R340). -/
theorem Chip.scanMode_registers (c : Chip) : c.registers.scanMode = c.scanMode := rfl

/-- The three bytes of a line's index entry, as the scan-out reads them (R291, R342). -/
def lineEntryIs (c : Cfg) (m : Memory) (line : Nat) (e : List Byte) : Prop :=
  ∀ i, i < 3 → Memory.read m (c.entryAddr line + i) = e[i]?

section Valid

variable {c : Cfg} (h : c.valid = true)
include h

theorem lineEntryIs.scanBytes {m : Memory} {line : Nat} {e0 e1 e2 : Byte} (he : lineEntryIs c m line [e0, e1, e2])
    (hl : line < c.totalLines) :
    Memory.scanByte m (c.indexStart + 3 * line) = some e0 ∧
    Memory.scanByte m (c.indexStart + 3 * line + 1) = some e1 ∧
    Memory.scanByte m (c.indexStart + 3 * line + 2) = some e2 := by
  have hfit := Cfg.entryAddr_fits h hl
  unfold Cfg.entryAddr at hfit
  rw [Memory.scanByte_of_lt _ (by omega), Memory.scanByte_of_lt _ (by omega), Memory.scanByte_of_lt _ (by omega)]
  exact ⟨he 0 (by omega), he 1 (by omega), he 2 (by omega)⟩

/-- Where a line shows a picture row, a clock of the picture window shows the byte of its pixel (R342). -/
theorem sample_pictureWindow {m : Memory} {y p : Nat} {b : Byte} (hy : y < c.height)
    (he : lineEntryIs c m (c.firstPicLine + y) (encPic (c.row y))) (hp : c.picStart ≤ p ∧ p < c.picEnd)
    (hb : Memory.read m (c.pix ((p - c.picStart) / c.pixelClks) y) = some b) :
    sample (initScanRegs c) m (c.firstPicLine + y) p = .pixel (ucode (BitVec.ofNat 32 c.programWord) b) := by
  obtain ⟨hpos, hlt⟩ := Cfg.row_range h hy
  obtain ⟨henc, haddr, -⟩ := indexEntriesDecode.2 _ hpos hlt
  rw [henc] at he
  obtain ⟨h0, h1, h2⟩ := he.scanBytes h (Cfg.pictureLine_lt h hy)
  have htoNat : (BitVec.ofNat 17 (c.row y)).toNat = c.row y := by
    rw [BitVec.toNat_ofNat, Nat.mod_eq_of_lt hlt]
  have hne : BitVec.ofNat 17 (c.row y) ≠ 0 := fun hz => by simp [hz] at htoNat; omega
  obtain ⟨-, -, hfit⟩ := Cfg.pix_fits h (Cfg.pixel_lt h hp) hy
  have hbyte := (Memory.scanByte_of_lt m hfit).trans hb
  unfold Cfg.pix at hbyte
  simp only [sample, initScanRegs, h0, h1, h2, haddr, htoNat, hbyte]
  rw [if_pos ⟨hne, hp⟩]

end Valid

/-! ## A state that displays the picture -/

theorem State.displaysPicture_of_idle {s : State} (hb : s.chip.busy = false)
    (hrun : s.chip.scanMode = .running (initScanRegs s.cfg))
    (he : ∀ y, y < s.cfg.height → lineEntryIs s.cfg s.chip.mem (s.cfg.firstPicLine + y) (encPic (s.cfg.row y))) :
    s.displaysPicture := by
  refine ⟨hrun, fun y i hy hi => ?_⟩
  rw [State.settledMem_of_idle hb]
  exact he y hy i hi

theorem State.displaysPicture.lineEntry {s : State} (h : s.displaysPicture) (hb : s.chip.busy = false) {y : Nat}
    (hy : y < s.cfg.height) :
    lineEntryIs s.cfg s.chip.mem (s.cfg.firstPicLine + y) (encPic (s.cfg.row y)) := by
  rw [← State.settledMem_of_idle hb]
  exact fun i hi => h.2 y i hy hi

/-- A store past the index table keeps the picture displayed (R308). -/
theorem State.displaysPicture.of_storedBy {s t : State} {a : Nat} {bs : List Byte} (h : s.displaysPicture)
    (hv : s.cfg.valid = true) (hstored : s.storedBy t a bs) (ha : s.cfg.indexEnd ≤ a) : t.displaysPicture := by
  obtain ⟨hrun, he⟩ := h
  obtain ⟨hmem, ⟨hregs, -, hcfg⟩, hbusy, -, -⟩ := hstored
  rw [← hcfg] at hv hrun he ha
  refine State.displaysPicture_of_idle hbusy ?_ fun y hy i hi => ?_
  · rw [← Chip.scanMode_registers, hregs, Chip.scanMode_registers, hrun]
  · have hl := Cfg.pictureLine_lt hv hy
    unfold Cfg.indexEnd at ha
    have hbefore : t.cfg.entryAddr (t.cfg.firstPicLine + y) + i < a := by
      unfold Cfg.entryAddr
      omega
    rw [hmem, if_neg (by omega)]
    exact he y i hy hi

/-- An idle chip that displays the picture shows, at a clock of the picture window, the byte of its pixel (R342). -/
theorem State.displaysPicture.shows_pixel {s : State} (h : s.displaysPicture) (hv : s.cfg.valid = true)
    (hb : s.chip.busy = false) {y p : Nat} {b : Byte} (hy : y < s.cfg.height)
    (hp : s.cfg.picStart ≤ p ∧ p < s.cfg.picEnd)
    (hbyte : Memory.read s.chip.mem (s.cfg.pix ((p - s.cfg.picStart) / s.cfg.pixelClks) y) = some b) :
    s.shows (s.cfg.firstPicLine + y) p = some (.pixel (ucode (BitVec.ofNat 32 s.cfg.programWord) b)) := by
  have hclock : p < s.cfg.lineLen := Nat.lt_of_lt_of_le hp.2 (Cfg.picEnd_le hv)
  rw [State.shows_of_running h.1 (Cfg.pictureLine_lt hv hy) hclock,
    sample_pictureWindow hv hy (h.lineEntry hb hy) hp hbyte]

/-- Settles O40: the store keeps the picture displayed, and each of the clocks shows the stored byte. -/
theorem pixelWrittenIsPixelShown : Obligations.PixelWrittenIsPixelShown := by
  intro s x y color j hs hdisplays hx hy hc hj
  obtain ⟨t, ht, hstored, -⟩ := hs.exec_writePixel hx hy hc
  obtain ⟨hpicture, -, -⟩ := Cfg.pix_fits hs.1 hx hy
  obtain ⟨hwindow, hcolumn⟩ := s.cfg.pixel_clock hx hj
  have hdisplays' : t.displaysPicture :=
    hdisplays.of_storedBy hs.1 hstored (Nat.le_trans (Nat.le_add_right _ _) hpicture)
  obtain ⟨hmem, ⟨-, -, hcfg⟩, hbusy, -, -⟩ := hstored
  have hbyte : Memory.read t.chip.mem (s.cfg.pix x y) = some (BitVec.ofNat 8 color) := by
    rw [hmem]
    simp
  have hshows := hdisplays'.shows_pixel (y := y) (p := s.cfg.picStart + x * s.cfg.pixelClks + j)
    (b := BitVec.ofNat 8 color) (hcfg ▸ hs.1) hbusy
  rw [hcfg, hcolumn] at hshows
  exact ⟨t, ht, hdisplays', hshows hy hwindow hbyte⟩

end Sys2Proof.Machine

/-! SUPPORT. The words of the protolines after `INIT` (R348–R351, R389): of the fills of a protoline's words, each word
holds what the last fill that covers it has stored. -/

namespace Sys2Proof

theorem Cfg.builtProtolines_pos (c : Cfg) : 0 < c.builtProtolines := by
  unfold Cfg.builtProtolines
  split <;> omega

end Sys2Proof

namespace Sys2Proof.Machine

/-! ## Words -/

theorem repeatWord_succ (count : Nat) (v : Half) : repeatWord (count + 1) v = hi v :: lo v :: repeatWord count v := rfl

/-- Byte `i` of copy `j` of a word. -/
theorem getElem?_repeatWord (v : Half) {count j i : Nat} (hi : i < 2) :
    (repeatWord count v)[2 * j + i]? = if j < count then (bytes16 v)[i]? else none := by
  induction count generalizing j with
  | zero => simp [repeatWord]
  | succ count ih =>
    rw [repeatWord_succ]
    cases j with
    | zero => interval_cases i <;> rfl
    | succ j =>
      rw [show 2 * (j + 1) + i = 2 * j + i + 1 + 1 by ring, List.getElem?_cons_succ, List.getElem?_cons_succ, ih]
      simp only [Nat.add_lt_add_iff_right]

/-- A word is its two bytes, the high byte first (R83). -/
theorem Memory.readWord_of_bytes {m : Memory} {a : Nat} {v : Half}
    (hv : ∀ i, i < 2 → Memory.read m (a + i) = (bytes16 v)[i]?) : Memory.readWord m a = some v := by
  have h0 : Memory.read m a = some (hi v) := hv 0 (by omega)
  have h1 : Memory.read m (a + 1) = some (lo v) := hv 1 (by omega)
  simp only [Memory.readWord, h0, h1, hi_append_lo]

/-! ## Fills of a protoline -/

@[simp] theorem lastStoredAt_nil (x : Nat) : lastStoredAt x [] = none := rfl

@[simp] theorem lastStoredAt_singleton (x : Nat) (i : Instr) : lastStoredAt x [i] = byteStoredAt x i := by
  simp [lastStoredAt]

section Valid

variable {c : Cfg} (h : c.valid = true)
include h

/-- What a fill stores at byte `i` of word `k` of protoline `m` (R302). -/
theorem byteStoredAt_fillFrame {m k i n offset count : Nat} (v : Nat) (hm : m < c.numProtolines)
    (hk : k < c.lineLen) (hi : i < 2) (hn : n < c.numProtolines) (hfit : offset + count ≤ c.lineLen) :
    byteStoredAt (c.protoByte m + 2 * k + i) (fillFrame (c.protoByte n + 2 * offset) count v) =
      if n = m ∧ offset ≤ k ∧ k < offset + count then (bytes16 (BitVec.ofNat 16 v))[i]? else none := by
  have hlen := repeatWord_length count (BitVec.ofNat 16 v)
  obtain ⟨hmend, hindex⟩ := Cfg.protoline_fits h hm
  obtain ⟨hnend, -⟩ := Cfg.protoline_fits h hn
  by_cases hoff : offset < c.lineLen
  swap
  · obtain rfl : count = 0 := by omega
    rw [if_neg (by omega)]
    simp [byteStoredAt, fillFrame, repeatWord]
  simp only [byteStoredAt, fillFrame, toNat_ofNat_address (show c.protoByte n + 2 * offset < 131072 by omega)]
  rcases Nat.lt_trichotomy n m with hlt | rfl | hgt
  · have hbelow := (c.protoByte_succ n).symm.trans_le (c.protoByte_mono hlt)
    rw [if_pos (by omega), if_neg (by omega)]
    exact List.getElem?_eq_none (by omega)
  · by_cases hle : offset ≤ k
    · obtain ⟨j, rfl⟩ := Nat.exists_eq_add_of_le hle
      have hbyte : c.protoByte n + 2 * (offset + j) + i - (c.protoByte n + 2 * offset) = 2 * j + i := by omega
      rw [if_pos (by omega), hbyte, getElem?_repeatWord _ hi]
      simp
    · rw [if_neg (by omega), if_neg (by omega)]
  · have habove := (c.protoByte_succ m).symm.trans_le (c.protoByte_mono hgt)
    rw [if_neg (by omega), if_neg (by omega)]

/-- A fill after other frames stores over them where it covers the word. -/
theorem lastStoredAt_concat_fillFrame {m k i n offset count : Nat} (v : Nat) (is : List Instr)
    (hm : m < c.numProtolines) (hk : k < c.lineLen) (hi : i < 2) (hn : n < c.numProtolines)
    (hfit : offset + count ≤ c.lineLen) :
    lastStoredAt (c.protoByte m + 2 * k + i) (is ++ [fillFrame (c.protoByte n + 2 * offset) count v]) =
      if n = m ∧ offset ≤ k ∧ k < offset + count then (bytes16 (BitVec.ofNat 16 v))[i]?
      else lastStoredAt (c.protoByte m + 2 * k + i) is := by
  have hsome : (bytes16 (BitVec.ofNat 16 v))[i]? = some ((bytes16 (BitVec.ofNat 16 v))[i]'hi) :=
    List.getElem?_eq_getElem hi
  rw [lastStoredAt_append, lastStoredAt_singleton, byteStoredAt_fillFrame h v hm hk hi hn hfit, hsome]
  split <;> rfl

/-- The three fills of a vsync protoline leave its pattern, and leave the other protolines alone (R349–R351, R387). -/
theorem lastStoredAt_initVsync {m k i n a b : Nat} (hm : m < c.numProtolines) (hk : k < c.lineLen) (hi : i < 2)
    (hn : n < c.numProtolines) (ha : a ≤ c.lineLen) (hb : c.halfLine + b ≤ c.lineLen) :
    lastStoredAt (c.protoByte m + 2 * k + i) (initVsync c n a b) =
      if n = m then (bytes16 (BitVec.ofNat 16 (vsyncLinePattern c a b k)))[i]? else none := by
  have hsplit : initVsync c n a b =
      [] ++ [fillFrame (c.protoByte n + 2 * 0) c.lineLen c.blankLevel] ++
        [fillFrame (c.protoByte n + 2 * 0) a c.syncLevel] ++
        [fillFrame (c.protoByte n + 2 * c.halfLine) b c.syncLevel] := rfl
  rw [hsplit, lastStoredAt_concat_fillFrame h _ _ hm hk hi hn hb,
    lastStoredAt_concat_fillFrame h _ _ hm hk hi hn (by omega),
    lastStoredAt_concat_fillFrame h _ _ hm hk hi hn (by omega), lastStoredAt_nil]
  -- The later fill of a word wins: the second pulse, then the first, then the blank line.
  unfold vsyncLinePattern
  grind

/-- The template of protoline 0 leaves R348's pattern without the burst, and leaves the other protolines alone
(R384). -/
theorem lastStoredAt_initTemplate {m k i : Nat} (hm : m < c.numProtolines) (hk : k < c.lineLen) (hi : i < 2) :
    lastStoredAt (c.protoByte m + 2 * k + i) (initTemplate c) =
      if m = 0 then (bytes16 (BitVec.ofNat 16 (activeLinePattern c false k)))[i]? else none := by
  obtain ⟨hsync, hsb, hburst, hbb, hblank, hactive⟩ := Cfg.valid_pulses h
  have hn : 0 < c.numProtolines := by omega
  have hlines : lastStoredAt (c.protoByte m + 2 * k + i)
      ([] ++ [fillFrame (c.protoByte 0 + 2 * 0) c.lineLen c.blankLevel] ++
        [fillFrame (c.protoByte 0 + 2 * 0) c.syncClks c.syncLevel]) =
      if m = 0 then (bytes16 (BitVec.ofNat 16 (if k < c.syncClks then c.syncLevel else c.blankLevel)))[i]?
      else none := by
    rw [lastStoredAt_concat_fillFrame h _ _ hm hk hi hn (by omega),
      lastStoredAt_concat_fillFrame h _ _ hm hk hi hn (by omega), lastStoredAt_nil]
    grind
  unfold activeLinePattern
  cases hstd : c.std with
  | pal =>
    have htemplate : initTemplate c =
        [] ++ [fillFrame (c.protoByte 0 + 2 * 0) c.lineLen c.blankLevel] ++
          [fillFrame (c.protoByte 0 + 2 * 0) c.syncClks c.syncLevel] := by simp [initTemplate, hstd]
    rw [htemplate, hlines]
    simp only [Bool.false_eq_true, if_false, ite_self]
  | ntsc =>
    have htemplate : initTemplate c =
        [] ++ [fillFrame (c.protoByte 0 + 2 * 0) c.lineLen c.blankLevel] ++
          [fillFrame (c.protoByte 0 + 2 * 0) c.syncClks c.syncLevel] ++
          [fillFrame (c.protoByte 0 + 2 * c.blankEnd) (c.activeEnd - c.blankEnd) c.blackLevel] := by
      simp [initTemplate, hstd]
    rw [htemplate, lastStoredAt_concat_fillFrame h _ _ hm hk hi hn (by omega), hlines]
    grind

/-- The burst changes the burst window alone (R348). -/
theorem activeLinePattern_burst (k : Nat) :
    activeLinePattern c true k =
      if c.burstStart ≤ k ∧ k < c.burstEnd then c.burstLevel else activeLinePattern c false k := by
  obtain ⟨-, hsync, -⟩ := Cfg.valid_pulses h
  unfold activeLinePattern
  grind

/-- The template of protoline 0 and its burst window leave R348's pattern with the burst (R384, R385). -/
theorem lastStoredAt_initTemplate_burst {m k i : Nat} (hm : m < c.numProtolines) (hk : k < c.lineLen) (hi : i < 2) :
    lastStoredAt (c.protoByte m + 2 * k + i) (initTemplate c ++ [burstFrame c true]) =
      if m = 0 then (bytes16 (BitVec.ofNat 16 (activeLinePattern c true k)))[i]? else none := by
  obtain ⟨-, -, hburst, hbb, hblank, hactive⟩ := Cfg.valid_pulses h
  have hframe : burstFrame c true =
      fillFrame (c.protoByte 0 + 2 * c.burstStart) (c.burstEnd - c.burstStart) c.burstLevel := rfl
  rw [hframe, lastStoredAt_concat_fillFrame h _ _ hm hk hi (by omega) (by omega),
    lastStoredAt_initTemplate h hm hk hi, activeLinePattern_burst h, Nat.add_sub_cancel' (by omega)]
  grind

/-- Step 7 leaves the pattern of each protoline from 1 on that is built, and leaves the others alone (R387, R389). -/
theorem lastStoredAt_initProtolines {m k i : Nat} (hm : m < c.numProtolines) (hk : k < c.lineLen) (hi : i < 2) :
    lastStoredAt (c.protoByte m + 2 * k + i) (initProtolines c) =
      if 0 < m ∧ m < c.builtProtolines then (bytes16 (BitVec.ofNat 16 (protolineValue c m k)))[i]? else none := by
  obtain ⟨-, hshalf, -, hlhalf, hfit⟩ := Cfg.valid_vsync h
  have hhalf : 2 * c.halfLine ≤ c.lineLen := Nat.mul_div_le _ _
  have hn := three_le_numProtolines h
  obtain ⟨-, hbuilt, -⟩ := Cfg.valid_protolines h
  have first := lastStoredAt_initVsync h hm hk hi (n := 1) (a := c.shortClks) (b := c.shortClks)
    (by omega) (by omega) (by omega)
  have second := lastStoredAt_initVsync h hm hk hi (n := 2) (a := c.longClks) (b := c.longClks)
    (by omega) (by omega) (by omega)
  have third (hfour : 3 < c.numProtolines) := lastStoredAt_initVsync h hm hk hi (n := 3) (a := c.longClks)
    (b := c.shortClks) hfour (by omega) (by omega)
  unfold Cfg.builtProtolines at hbuilt ⊢
  unfold initProtolines
  cases hstd : c.std with
  | pal =>
    rw [hstd] at hbuilt
    simp only [lastStoredAt_append, first, second, third hbuilt]
    rcases m with _ | _ | _ | _ | m <;> simp [protolineValue]
  | ntsc =>
    simp only [lastStoredAt_append, first, second, lastStoredAt_nil]
    rcases m with _ | _ | _ | m <;> simp [protolineValue]

/-! ## The SRAM outside the index table -/

/-- No entry frame stores outside the index table (R291, R297). -/
theorem byteStoredAt_entryFrame_outside {l x : Nat} {e : List Byte} (hl : l < c.totalLines) (he : e.length = 3)
    (hx : x < c.indexStart ∨ c.indexEnd ≤ x) : byteStoredAt x (entryFrame (c.entryAddr l) e) = none := by
  have hfit := Cfg.entryAddr_fits h hl
  simp only [byteStoredAt, entryFrame, toNat_ofNat_address (show c.entryAddr l < 131072 by omega)]
  unfold Cfg.indexEnd at hx
  unfold Cfg.entryAddr at hfit ⊢
  split
  · exact List.getElem?_eq_none (by omega)
  · rfl

/-- What `INIT` stores outside the index table: what its fills store, and 0 where they store nothing (R382). -/
theorem lastStoredAt_initFrames_outside {x : Nat} (hx : x < c.indexStart ∨ c.indexEnd ≤ x) (hlt : x < 131072) :
    lastStoredAt x (initFrames c) =
      (lastStoredAt x (initProtolines c)).or
        ((lastStoredAt x (initTemplate c ++ [burstFrame c true])).or (some 0)) := by
  have htable : lastStoredAt x (initTable c) = none := by
    rw [initTable, lastStoredAt_append, lastStoredAt_eq_none (List.forall_mem_map.mpr fun l hl =>
      byteStoredAt_entryFrame_outside h (List.mem_range.mp hl) rfl hx)]
    rfl
  have hframeTable : lastStoredAt x (initFrameTable c) = none :=
    lastStoredAt_eq_none <| List.forall_mem_map.mpr fun e he =>
      byteStoredAt_entryFrame_outside h ((Cfg.valid_frameTable h).1 e he).1 rfl hx
  have hpicture : lastStoredAt x (initPicture c) = none :=
    lastStoredAt_eq_none <| List.forall_mem_map.mpr fun r hr =>
      byteStoredAt_entryFrame_outside h (Cfg.pictureLine_lt h (List.mem_range.mp hr)) rfl hx
  have hend : lastStoredAt x (initEnd c) = none := rfl
  have hstart : lastStoredAt x (initStart c) = none := rfl
  have hzero : lastStoredAt x [zeroFrame 0 131072] = some 0 := by
    rw [lastStoredAt_singleton]
    simp only [byteStoredAt, zeroFrame, BitVec.ofNat_eq_ofNat, BitVec.toNat_ofNat, Nat.zero_mod, Nat.zero_le, if_true,
      Nat.sub_zero]
    exact List.getElem?_replicate_of_lt hlt
  simp only [initFrames, initBefore, initAfter, lastStoredAt_append, hend, hpicture, hframeTable, htable, hstart, hzero,
    Option.none_or, Option.or_none, Option.or_assoc]

/-- The two bytes `INIT` stores for a word of a protoline (R348–R351, R389). -/
theorem lastStoredAt_initFrames_protoline {m k i : Nat} (hm : m < c.numProtolines) (hk : k < c.lineLen) (hi : i < 2) :
    lastStoredAt (c.protoByte m + 2 * k + i) (initFrames c) =
      (bytes16 (if m < c.builtProtolines then BitVec.ofNat 16 (protolineValue c m k) else 0))[i]? := by
  obtain ⟨hend, -⟩ := Cfg.protoline_fits h hm
  have hindex := Cfg.indexStart_lt h
  rw [lastStoredAt_initFrames_outside h (.inl (by omega)) (by omega), lastStoredAt_initProtolines h hm hk hi,
    lastStoredAt_initTemplate_burst h hm hk hi]
  have hsome (v : Half) : (bytes16 v)[i]? = some ((bytes16 v)[i]'hi) := List.getElem?_eq_getElem hi
  have hzero : (bytes16 0)[i]? = some 0 := by interval_cases i <;> rfl
  have hpos := c.builtProtolines_pos
  by_cases hbuilt : m < c.builtProtolines
  · rw [if_pos hbuilt]
    rcases Nat.eq_zero_or_pos m with rfl | hm0
    · rw [if_neg (by omega), if_pos rfl, Option.none_or]
      exact (congrArg (Option.or · _) (hsome _)).trans (hsome _).symm
    · rw [if_pos ⟨hm0, hbuilt⟩, hsome, Option.some_or]
  · rw [if_neg (by omega), if_neg (by omega), if_neg hbuilt, hzero]
    rfl

/-- Past the index table `INIT` leaves the zeros of its third step (R296, R382). -/
theorem lastStoredAt_initFrames_pastTable {x : Nat} (hx : c.indexEnd ≤ x) (hlt : x < 131072) :
    lastStoredAt x (initFrames c) = some 0 := by
  have hstart : c.indexStart ≤ x := Nat.le_trans (Nat.le_add_right _ _) hx
  rw [lastStoredAt_initFrames_outside h (.inr hx) hlt,
    lastStoredAt_eq_none fun j hj => (initProtolines_fills h j hj).byteStoredAt_eq_none h hstart,
    lastStoredAt_eq_none fun j hj => (initTemplate_fills h j hj).byteStoredAt_eq_none h hstart]
  rfl

end Valid

/-! ## The state `INIT` leaves -/

/-- After `INIT` each byte is what its sequence has stored there last, no move runs or is pending, and the chip is what
the sequence makes of the drained one (R380–R393). -/
theorem exec_init {s : State} (hv : s.cfg.valid = true) (hd : s.drains) (hr : s.hostResetIn = none) :
    ∃ t, exec .init s = .next t ∧ t.cfg = s.cfg ∧ t.quiescent ∧
      t.chip = (initFrames s.cfg).foldl Chip.accept s.idleChip ∧
      ∀ x b, lastStoredAt x (initFrames s.cfg) = some b → Memory.read t.chip.mem x = some b := by
  obtain ⟨t, -, hrun, hchip, -, hcfg, hblock, -⟩ := State.opInit_ok (s := s.beginOp) hv hd hr
  have hbusy : t.chip.busy = false := by
    rw [hchip, Chip.foldl_accept_busy]
    exact State.idleChip_busy _
  refine ⟨_, congrArg finishCode hrun, hcfg, ⟨hbusy, congrArg Block.movePending hblock⟩, hchip, fun x b hx => ?_⟩
  change Memory.read t.chip.mem x = some b
  rw [hchip, Chip.read_foldl_accept]
  exact congrArg (Option.or · _) hx

/-- Settles O37: a word of a protoline is the two bytes that the sequence of `INIT` stores there last. -/
theorem initBuildsTheProtolines : Obligations.InitBuildsTheProtolines := by
  intro s hv hd hr
  obtain ⟨t, ht, -, -, -, hread⟩ := exec_init hv hd hr
  refine ⟨t, ht, fun n k hn hk => ?_, fun a ha hlt => hread a 0 (lastStoredAt_initFrames_pastTable hv ha hlt)⟩
  refine Memory.readWord_of_bytes fun i hi => ?_
  have hbyte := lastStoredAt_initFrames_protoline hv hn hk hi
  rw [List.getElem?_eq_getElem hi] at hbyte ⊢
  exact hread _ _ hbyte

end Sys2Proof.Machine

/-! SUPPORT. The registers `INIT` programs (R261), and the blank picture that the scan-out shows after it (R354). -/

namespace Sys2Proof

/-! ## `VDCTRL2` -/

/-- `VDCTRL2`'s fields do not overlap, so that its value is their sum (R43, R261, R266). -/
theorem Cfg.vdctrl2Value_toNat {c : Cfg} (h : c.valid = true) :
    c.vdctrl2Value.toNat = 32768 + 16384 * (decide (c.std = .pal)).toNat + 1024 * c.pixelClks + c.totalLines := by
  obtain ⟨-, hclks⟩ := Cfg.valid_pixelClks h
  obtain ⟨-, hlines⟩ := Cfg.valid_lines h
  have hflags : 0x8000 ||| (if c.std = .pal then 0x4000 else 0) =
      2 ^ 14 * (2 + (decide (c.std = .pal)).toNat) := by
    by_cases hstd : c.std = .pal <;> simp [hstd]
  have hpix : 2 ^ 14 * (2 + (decide (c.std = .pal)).toNat) ||| c.pixelClks <<< 10 =
      2 ^ 10 * (2 ^ 4 * (2 + (decide (c.std = .pal)).toNat) + c.pixelClks) := by
    rw [Nat.shiftLeft_eq, ← Nat.two_pow_add_eq_or_of_lt (by omega)]
    ring
  have hval : 0x8000 ||| (if c.std = .pal then 0x4000 else 0) ||| (c.pixelClks <<< 10) ||| c.totalLines =
      2 ^ 10 * (2 ^ 4 * (2 + (decide (c.std = .pal)).toNat) + c.pixelClks) + c.totalLines := by
    rw [hflags, hpix, ← Nat.two_pow_add_eq_or_of_lt (by omega)]
  have hbit := Bool.toNat_le (decide (c.std = .pal))
  rw [Cfg.vdctrl2Value, hval, BitVec.toNat_ofNat]
  omega

end Sys2Proof

namespace Sys2Proof.Machine

/-! ## The registers after a sequence of frames -/

/-- What a frame makes of the registers depends on the registers alone. -/
theorem Chip.registers_accept {k k' : Chip} (h : k.registers = k'.registers) (i : Instr) :
    (k.accept i).registers = (k'.accept i).registers := by
  have hstep (k : Chip) : (k.accept i).registers = (k.registers.accept i).registers := by cases i <;> rfl
  exact (hstep k).trans ((congrArg (fun r => (Chip.accept r i).registers) h).trans (hstep k').symm)

theorem Chip.registers_accept_store (k : Chip) {i : Instr} (h : isStore i = true) :
    (k.accept i).registers = k.registers := by
  cases i with
  | write => rfl
  | _ => cases h

/-- The frames that store to the SRAM leave every register alone (R205). -/
theorem Chip.registers_foldl_accept (is : List Instr) {k k' : Chip} (h : k.registers = k'.registers) :
    (is.foldl Chip.accept k).registers =
      ((is.filter fun i => !isStore i).foldl Chip.accept k').registers := by
  induction is generalizing k k' with
  | nil => exact h
  | cons i is ih =>
    by_cases hi : isStore i = true
    · rw [List.filter_cons_of_neg (by simp [hi])]
      exact ih ((k.registers_accept_store hi).trans h)
    · rw [List.filter_cons_of_pos (by simp [hi])]
      exact ih (Chip.registers_accept h i)

/-- The frames of the sequence that are no stores (R381, R383, R392, R393). -/
theorem initFrames_registers (c : Cfg) :
    (initFrames c).filter (fun i => !isStore i) =
      initStart c ++ [.linelen (BitVec.ofNat 16 c.lineLen), .program (BitVec.ofNat 32 c.programWord),
        .indexstart (BitVec.ofNat 32 c.indexStart)] ++ initEnd c := by
  have hentries {α : Type} (l : List α) (a : α → Nat) (e : α → List Byte) :
      (l.map fun x => entryFrame (a x) (e x)).filter (fun i => !isStore i) = [] := by
    simp [List.filter_eq_nil_iff, entryFrame, isStore]
  have hfills : (initTemplate c).filter (fun i => !isStore i) = [] ∧
      (initProtolines c).filter (fun i => !isStore i) = [] := by
    unfold initTemplate initProtolines
    cases c.std <;> exact ⟨rfl, rfl⟩
  simp only [initFrames, initBefore, initAfter, initTable, initFrameTable, initPicture, List.filter_append, hentries,
    hfills, List.append_nil, List.nil_append]
  rfl

/-- After `INIT` the scan-out runs, with the registers of R261 (R340). -/
theorem scanMode_initFrames {c : Cfg} (h : c.valid = true) (k : Chip) :
    ((initFrames c).foldl Chip.accept k).scanMode = .running (initScanRegs c) := by
  have hlen := Cfg.valid_lineLen h
  have hstop : c.picEnd ≤ 4095 := Nat.le_trans (Cfg.picEnd_le h) hlen
  have hstart : c.picStart ≤ 4095 := Nat.le_trans (Nat.le_add_right _ _) hstop
  have hindex := Cfg.indexStart_lt h
  obtain ⟨-, -, -, -, hblank, hactive⟩ := Cfg.valid_pulses h
  obtain ⟨hclks, hclks'⟩ := Cfg.valid_pixelClks h
  obtain ⟨hlines, hlines'⟩ := Cfg.valid_lines h
  have hvalue := Cfg.vdctrl2Value_toNat h
  have hbit := Bool.toNat_le (decide (c.std = .pal))
  have hclock : (⟨Cfg.vdctrl1Value.getLsbD 12, Cfg.vdctrl1Value.getLsbD 13⟩ : Vdctrl1) = ⟨true, true⟩ := by decide
  have field12 {n : Nat} (hn : n ≤ 4095) : ((BitVec.ofNat 16 n).extractLsb' 0 12).toNat = n := by
    simp only [BitVec.extractLsb'_toNat, BitVec.toNat_ofNat, Nat.shiftRight_zero]
    omega
  have hbase : ((BitVec.ofNat 32 c.indexStart).extractLsb' 0 17).toNat = c.indexStart := by
    simp only [BitVec.extractLsb'_toNat, BitVec.toNat_ofNat, Nat.shiftRight_zero]
    omega
  have henable : c.vdctrl2Value.getLsbD 15 = true := by
    rw [BitVec.getLsbD, Nat.testBit_eq_decide_div_mod_eq, hvalue, decide_eq_true_eq]
    omega
  have hcount : (c.vdctrl2Value.extractLsb' 0 10).toNat = c.totalLines := by
    rw [BitVec.extractLsb'_toNat, hvalue, Nat.shiftRight_zero]
    omega
  have hpix : (c.vdctrl2Value.extractLsb' 10 4).toNat = c.pixelClks := by
    rw [BitVec.extractLsb'_toNat, hvalue, Nat.shiftRight_eq_div_pow]
    omega
  rw [← Chip.scanMode_registers, Chip.registers_foldl_accept _ (k' := k) rfl, Chip.scanMode_registers,
    initFrames_registers]
  simp only [initStart, initEnd, List.cons_append, List.nil_append, List.foldl_cons, List.foldl_nil, Chip.accept,
    Chip.load, Chip.scanMode, Chip.scanRegs, henable, hclock, field12 hstop, field12 hlen, field12 hstart, hbase,
    hcount, hpix, if_true]
  rw [if_pos ⟨by omega, hlines, hclks, trivial, trivial⟩]
  rfl

/-! ## What a line shows -/

section Valid

variable {c : Cfg} (h : c.valid = true)
include h

/-- Outside a picture window a clock shows its word of the protoline that the line's entry selects (R342). -/
theorem sample_protolineWord {m : Memory} {line p n : Nat} {e0 e1 e2 : Byte} {w : Half} (hl : line < c.totalLines)
    (hp : p < c.lineLen) (he : lineEntryIs c m line [e0, e1, e2])
    (hout : ¬(entryPicture e0 e1 e2 ≠ 0 ∧ c.picStart ≤ p ∧ p < c.picEnd)) (hsel : (entrySelector e2).toNat = n)
    (hn : n < c.numProtolines) (hw : Memory.readWord m (2 * n * c.lineLen + 2 * p) = some w) :
    sample (initScanRegs c) m line p = .proto w := by
  obtain ⟨h0, h1, h2⟩ := he.scanBytes h hl
  obtain ⟨-, -, hwords⟩ := Cfg.valid_protolines h
  have hnext : (n + 1) * c.lineLen ≤ c.numProtolines * c.lineLen := Nat.mul_le_mul_right _ hn
  rw [Nat.add_mul] at hnext
  have haddr : 2 * ((n * c.lineLen + p) % 65536) = 2 * n * c.lineLen + 2 * p := by
    rw [Nat.mod_eq_of_lt (by omega)]
    ring
  simp only [sample, initScanRegs, h0, h1, h2, hsel, haddr, hw]
  rw [if_neg hout]

/-- A line of a picture row shows protoline 0 outside the picture window (R306, R342). -/
theorem sample_pictureBorder {m : Memory} {y p : Nat} {w : Half} (hy : y < c.height) (hp : p < c.lineLen)
    (he : lineEntryIs c m (c.firstPicLine + y) (encPic (c.row y))) (hout : ¬(c.picStart ≤ p ∧ p < c.picEnd))
    (hw : Memory.readWord m (2 * 0 * c.lineLen + 2 * p) = some w) :
    sample (initScanRegs c) m (c.firstPicLine + y) p = .proto w := by
  obtain ⟨hpos, hlt⟩ := Cfg.row_range h hy
  obtain ⟨henc, -, hsel⟩ := indexEntriesDecode.2 _ hpos hlt
  rw [henc] at he
  have hn : 0 < c.numProtolines := Nat.lt_of_lt_of_le (by omega) (three_le_numProtolines h)
  exact sample_protolineWord h (Cfg.pictureLine_lt h hy) hp he (fun hin => hout hin.2) (congrArg BitVec.toNat hsel)
    hn hw

/-- A line whose entry names a protoline shows that protoline at every clock (R305, R342). -/
theorem sample_protolineLine {m : Memory} {line p n : Nat} {w : Half} (hl : line < c.totalLines)
    (hp : p < c.lineLen) (hn : n < c.numProtolines) (he : lineEntryIs c m line (encProto n))
    (hw : Memory.readWord m (2 * n * c.lineLen + 2 * p) = some w) :
    sample (initScanRegs c) m line p = .proto w := by
  obtain ⟨hsixteen, -, -⟩ := Cfg.valid_protolines h
  obtain ⟨henc, hpic, hsel⟩ := indexEntriesDecode.1 n (by omega)
  rw [henc] at he
  have hselNat : (entrySelector (BitVec.ofNat 8 (16 * n))).toNat = n := by
    rw [hsel, BitVec.toNat_ofNat]
    omega
  exact sample_protolineWord h hl hp he (fun hin => hin.1 hpic) hselNat hn hw

/-- The protoline of a line is one that `INIT` builds (R308, R389). -/
theorem lineProtoline_lt (line : Nat) : lineProtoline c line < c.builtProtolines := by
  unfold lineProtoline
  cases hfind : c.frameTable.find? fun e => e.1 == line with
  | none => exact c.builtProtolines_pos
  | some e =>
    obtain ⟨-, -, hbuilt, -⟩ := (Cfg.valid_frameTable h).1 e (List.mem_of_find?_eq_some hfind)
    exact hbuilt

end Valid

/-- After `INIT` no move runs or is pending, and the picture is displayed (R354). -/
theorem exec_init_displaysPicture {s t : State} (hv : s.cfg.valid = true) (hd : s.drains) (hr : s.hostResetIn = none)
    (ht : exec .init s = .next t) : t.cfg = s.cfg ∧ t.quiescent ∧ t.displaysPicture := by
  obtain ⟨u, hu, hcfg, hquiet, hchip, -⟩ := exec_init hv hd hr
  obtain rfl := Host.Outcome.next.inj (ht.symm.trans hu)
  obtain ⟨u, hu, htable⟩ := initBuildsTheIndexTable s hv hd hr
  obtain rfl := Host.Outcome.next.inj (ht.symm.trans hu)
  rw [← hcfg] at hv hchip htable
  refine ⟨hcfg, hquiet, State.displaysPicture_of_idle hquiet.1 (hchip ▸ scanMode_initFrames hv _) fun y hy i hi => ?_⟩
  refine (htable _ i (Cfg.pictureLine_lt hv hy) hi).trans ?_
  rw [if_pos (by omega), Nat.add_sub_cancel_left]

/-- Settles O38: each line shows its entry's picture row, whose bytes are 0, or protoline, whose words are built. -/
theorem initShowsTheBlankPicture : Obligations.InitShowsTheBlankPicture := by
  intro s hv hd hr
  obtain ⟨t, ht, htable⟩ := initBuildsTheIndexTable s hv hd hr
  obtain ⟨u, hu, hwords, hzeros⟩ := initBuildsTheProtolines s hv hd hr
  obtain rfl := Host.Outcome.next.inj (ht.symm.trans hu)
  obtain ⟨hcfg, hquiet, hdisplays⟩ := exec_init_displaysPicture hv hd hr ht
  refine ⟨t, ht, hdisplays, hquiet, fun line p hl hp => ?_⟩
  rw [← hcfg] at hv htable hwords hzeros hl hp ⊢
  have hbuilt {n : Nat} (hn : n < t.cfg.builtProtolines) : n < t.cfg.numProtolines ∧
      Memory.readWord t.chip.mem (2 * n * t.cfg.lineLen + 2 * p) =
        some (BitVec.ofNat 16 (protolineValue t.cfg n p)) := by
    obtain ⟨-, hle, -⟩ := Cfg.valid_protolines hv
    have hlt := Nat.lt_of_lt_of_le hn hle
    exact ⟨hlt, (hwords n p hlt hp).trans (by rw [if_pos hn])⟩
  have hshows : t.shows line p = some (sample (initScanRegs t.cfg) t.chip.mem line p) :=
    State.shows_of_running hdisplays.1 hl hp
  by_cases hpic : t.cfg.firstPicLine ≤ line ∧ line < t.cfg.firstPicLine + t.cfg.height
  · obtain ⟨y, rfl⟩ := Nat.exists_eq_add_of_le hpic.1
    have hy : y < t.cfg.height := by omega
    rw [if_pos hpic]
    by_cases hwindow : t.cfg.picStart ≤ p ∧ p < t.cfg.picEnd
    · obtain ⟨hstart, -, hfit⟩ := Cfg.pix_fits hv (Cfg.pixel_lt hv hwindow) hy
      rw [if_pos ⟨hpic, hwindow⟩]
      exact hdisplays.shows_pixel hv hquiet.1 hy hwindow
        (hzeros _ (Nat.le_trans (Nat.le_add_right _ _) hstart) hfit)
    · have hword := (hbuilt t.cfg.builtProtolines_pos).2
      rw [if_neg fun hin => hwindow hin.2, hshows,
        sample_pictureBorder hv hy hp (hdisplays.lineEntry hquiet.1 hy) hwindow hword]
  · obtain ⟨hn, hword⟩ := hbuilt (lineProtoline_lt hv line)
    have hentry : lineEntryIs t.cfg t.chip.mem line (encProto (lineProtoline t.cfg line)) :=
      fun i hi => (htable line i hl hi).trans (if_neg hpic)
    rw [if_neg fun hin => hpic hin.1, if_neg hpic, hshows, sample_protolineLine hv hl hp hn hentry hword]

end Sys2Proof.Machine

/-! SUPPORT. Proofs for the statements of spec/45_init.md: the registers and the SRAM that `INIT` leaves (R380–R393),
and that they are the same whatever the state before it, but for `BMC2` and the active move registers (R395). -/

namespace Sys2Proof.Machine

/-! ## Every byte is written -/

/-- A frame that stores at the address is among those sent. -/
theorem lastStoredAt_isSome_of_mem {x : Nat} {i : Instr} {is : List Instr} (hi : i ∈ is)
    (hb : (byteStoredAt x i).isSome) : (lastStoredAt x is).isSome :=
  List.findSome?_isSome_iff.mpr ⟨i, List.mem_reverse.mpr hi, hb⟩

/-- Step 3 stores at every address of the SRAM (R382). -/
theorem byteStoredAt_zeroFrame {x : Nat} (hx : x < 131072) : byteStoredAt x (zeroFrame 0 131072) = some 0 := by
  simp only [byteStoredAt, zeroFrame, BitVec.ofNat_eq_ofNat, BitVec.toNat_ofNat, Nat.zero_mod, Nat.zero_le, if_true,
    Nat.sub_zero]
  exact List.getElem?_replicate_of_lt hx

theorem zeroFrame_mem_initFrames (c : Cfg) : zeroFrame 0 131072 ∈ initFrames c := by
  simp [initFrames, initBefore]

theorem lastStoredAt_initFrames_isSome (c : Cfg) {x : Nat} (hx : x < 131072) :
    (lastStoredAt x (initFrames c)).isSome :=
  lastStoredAt_isSome_of_mem (zeroFrame_mem_initFrames c) (Option.isSome_of_eq_some (byteStoredAt_zeroFrame hx))

/-- After the sequence no byte is `⊥`, whatever the chip before it (R96, R382). -/
theorem full_initFrames (c : Cfg) (k : Chip) : Memory.full ((initFrames c).foldl Chip.accept k).mem := by
  intro x hx
  rw [Chip.read_foldl_accept, Option.isSome_or, lastStoredAt_initFrames_isSome c hx, Bool.true_or]

/-! ## The registers -/

/-- The register frames of the sequence (R381, R383, R392, R393). -/
def initRegisterFrames (c : Cfg) : List Instr :=
  initStart c ++ [.linelen (BitVec.ofNat 16 c.lineLen), .program (BitVec.ofNat 32 c.programWord),
    .indexstart (BitVec.ofNat 32 c.indexStart)] ++ initEnd c

/-- What the sequence makes of the registers is what its register frames make of them. -/
theorem registers_initFrames (c : Cfg) (k : Chip) :
    ((initFrames c).foldl Chip.accept k).registers =
      ((initRegisterFrames c).foldl Chip.accept k).registers := by
  rw [Chip.registers_foldl_accept _ (k' := k) rfl, initFrames_registers, initRegisterFrames]

/-- The sequence sends every register but `BMC2` and the active move registers, which it keeps (R381, R383, R392, R393;
log entry 20). -/
theorem registers_initFrames_eq (c : Cfg) (k k' : Chip) :
    ((initFrames c).foldl Chip.accept k).registers =
      { ((initFrames c).foldl Chip.accept k').registers with bmc2 := k.bmc2, active := k.active } := by
  rw [registers_initFrames, registers_initFrames]
  rfl

theorem bmc2_initFrames (c : Cfg) (k : Chip) : ((initFrames c).foldl Chip.accept k).bmc2 = k.bmc2 :=
  (congrArg Chip.bmc2 (registers_initFrames_eq c k k) :)

theorem active_initFrames (c : Cfg) (k : Chip) : ((initFrames c).foldl Chip.accept k).active = k.active :=
  (congrArg Chip.active (registers_initFrames_eq c k k) :)

section Valid

variable {c : Cfg} (h : c.valid = true)
include h

/-- Step 10 clears the shadow addresses and sets the live filter flag (R392). -/
theorem bmc1_initFrames (k : Chip) :
    ((initFrames c).foldl Chip.accept k).bmc1 =
      some ⟨0, 0, false, false, false, decide (c.lpfEnable = 1)⟩ := by
  obtain ⟨-, -, -, -, -, -, hlpf⟩ := Cfg.valid_levels h
  have hflags : BitVec.ofNat 8 (c.lpfEnable <<< 4) = blitFlags c false 0 0 := by simp [blitFlags]
  obtain ⟨-, hdir, hdst, hsrc, hfilter⟩ := blitFlags_bits c hlpf false 0 0
  refine (congrArg Chip.bmc1 (registers_initFrames c k)).trans ?_
  change some (Bmc1.mk 0 0 _ _ _ _) = _
  rw [hflags, hdir, hdst, hsrc, hfilter]
  rfl

/-- Step 11 sets the standard's flag (R43, R393). -/
theorem pal_initFrames (k : Chip) :
    ((initFrames c).foldl Chip.accept k).videoForm.map VideoForm.pal = some (decide (c.std = .pal)) := by
  obtain ⟨-, hclks⟩ := Cfg.valid_pixelClks h
  obtain ⟨-, hlines⟩ := Cfg.valid_lines h
  have hvalue := Cfg.vdctrl2Value_toNat h
  have hflag : c.vdctrl2Value.getLsbD 14 = decide (c.std = .pal) := by
    rw [BitVec.getLsbD, Nat.testBit_eq_decide_div_mod_eq, hvalue]
    cases decide (c.std = .pal) <;> simp only [Bool.toNat_true, Bool.toNat_false, decide_eq_true_eq,
      decide_eq_false_iff_not] <;> omega
  refine (congrArg (fun r => r.videoForm.map VideoForm.pal) (registers_initFrames c k)).trans ?_
  exact congrArg some hflag

end Valid

/-- Settles O35: `State.opInit_ok`, and what the sequence makes of a chip. -/
theorem initProgramsTheChip : Obligations.InitProgramsTheChip := by
  intro s hv hd hr
  obtain ⟨t, -, hrun, hchip, hfaults, hcfg, hblock, -, hmode, -⟩ := State.opInit_ok (s := s.beginOp) hv hd hr
  have hbusy : t.chip.busy = false := by
    rw [hchip, Chip.foldl_accept_busy]
    exact State.idleChip_busy _
  have hidle : s.beginOp.idleChip.registers = s.chip.registers := State.idleChip_registers _
  refine ⟨{ t with result := some (.code .ok) }, congrArg finishCode hrun, rfl, hfaults, hcfg, hblock,
    ⟨hcfg ▸ hv, hmode, ?_, fun hb => ?_⟩, hbusy, ?_, ?_, ?_, ?_, ?_⟩
  · exact hchip ▸ full_initFrames _ _
  · exact absurd (hbusy.symm.trans hb) Bool.false_ne_true
  · exact hchip ▸ scanMode_initFrames hv _
  · exact hchip ▸ pal_initFrames hv _
  · exact hchip ▸ bmc1_initFrames hv _
  · exact (congrArg Chip.bmc2 hchip).trans ((bmc2_initFrames _ _).trans (congrArg Chip.bmc2 hidle :))
  · exact (congrArg Chip.active hchip).trans ((active_initFrames _ _).trans (congrArg Chip.active hidle :))

/-! ## The same chip from any state -/

/-- A chip is its registers, its SRAM, and the bits `BUSY` and `SELECT`: what the registers differ by is all that the
chips differ by. -/
theorem Chip.eq_of_registers {k k' : Chip} {bmc2 : Option Bmc2} {active : Option ActiveMove}
    (hregs : k.registers = { k'.registers with bmc2 := bmc2, active := active }) (hmem : k.mem = k'.mem)
    (hbusy : k.busy = k'.busy) (hselect : k.select = k'.select) :
    k = { k' with bmc2 := bmc2, active := active } :=
  calc k = { k.registers with mem := k.mem, busy := k.busy, select := k.select } := rfl
    _ = { k' with bmc2 := bmc2, active := active } := by
      rw [hregs, hmem, hbusy, hselect]
      rfl

/-- `SELECT` is 0 after every frame (R161). -/
theorem Chip.accept_select (k : Chip) (i : Instr) : (k.accept i).select = false := by
  cases i <;> rfl

theorem Chip.foldl_accept_select (is : List Instr) {k : Chip} (hk : k.select = false) :
    (is.foldl Chip.accept k).select = false := by
  induction is generalizing k with
  | nil => exact hk
  | cons i is ih => exact ih (k.accept_select i)

/-- A frame that passes its checks keeps the canonical form of the SRAM (R197). -/
theorem Chip.wf_accept {c : Cfg} {k : Chip} {i : Instr} (hk : Memory.wf k.mem) (hi : framePasses c i) :
    Memory.wf (k.accept i).mem := by
  cases i with
  | write a data => exact Memory.wf_write hk hi.2
  | _ => exact hk

theorem Chip.wf_foldl_accept {c : Cfg} {is : List Instr} (his : ∀ i ∈ is, framePasses c i) {k : Chip}
    (hk : Memory.wf k.mem) : Memory.wf (is.foldl Chip.accept k).mem := by
  induction is generalizing k with
  | nil => exact hk
  | cons i is ih =>
    obtain ⟨hi, his⟩ := List.forall_mem_cons.mp his
    exact ih his (Chip.wf_accept hk hi)

theorem initFrames_passes {c : Cfg} (h : c.valid = true) : ∀ i ∈ initFrames c, framePasses c i := by
  rw [initFrames, initBefore_eq, List.forall_mem_append, List.forall_mem_append]
  exact ⟨⟨initStart_passes h, initFill_passes h⟩, initAfter_passes h⟩

/-- The drained SRAM has the canonical form where the SRAM has it (R413). -/
theorem State.wf_idleChip {s : State} (h : Memory.wf s.chip.mem) : Memory.wf s.idleChip.mem := by
  rw [State.idleChip_mem, State.settledMem]
  split
  · exact State.wf_complete h
  · exact h

/-- No byte outside the SRAM is listed (R80). -/
theorem Memory.wf.read_eq_none {m : Memory} (h : Memory.wf m) {x : Nat} (hx : 131072 ≤ x) :
    Memory.read m x = none := by
  rw [Memory.read, Option.map_eq_none_iff, List.find?_eq_none]
  intro cell hcell heq
  have := h.2 cell hcell
  rw [beq_iff_eq] at heq
  omega

/-- The sequence leaves one SRAM, whatever the canonical one before it: it stores every byte (R382, R395). -/
theorem mem_initFrames_eq {c : Cfg} (h : c.valid = true) {k k' : Chip} (hk : Memory.wf k.mem)
    (hk' : Memory.wf k'.mem) :
    ((initFrames c).foldl Chip.accept k).mem = ((initFrames c).foldl Chip.accept k').mem := by
  have hwf := Chip.wf_foldl_accept (initFrames_passes h) hk
  have hwf' := Chip.wf_foldl_accept (initFrames_passes h) hk'
  refine Memory.eq_of_read hwf.1 hwf'.1 fun x => ?_
  by_cases hx : x < 131072
  · have hsome := lastStoredAt_initFrames_isSome c hx
    rw [Chip.read_foldl_accept, Chip.read_foldl_accept, Option.or_of_isSome hsome, Option.or_of_isSome hsome]
  · rw [hwf.read_eq_none (Nat.le_of_not_lt hx), hwf'.read_eq_none (Nat.le_of_not_lt hx)]

/-- From two drained chips the sequence leaves one chip, but for `BMC2` and the active move registers (R395; log
entry 20). -/
theorem foldl_initFrames_eq {c : Cfg} (h : c.valid = true) {s s' : State} (hs : Memory.wf s.chip.mem)
    (hs' : Memory.wf s'.chip.mem) :
    (initFrames c).foldl Chip.accept s.idleChip =
      { (initFrames c).foldl Chip.accept s'.idleChip with
        bmc2 := s.idleChip.bmc2
        active := s.idleChip.active } := by
  refine Chip.eq_of_registers (registers_initFrames_eq c _ _) ?_ ?_ ?_
  · exact mem_initFrames_eq h (State.wf_idleChip hs) (State.wf_idleChip hs')
  · exact (Chip.foldl_accept_busy _ _).trans (s.idleChip_busy.trans
      (s'.idleChip_busy.symm.trans (Chip.foldl_accept_busy _ _).symm))
  · exact (Chip.foldl_accept_select _ rfl).trans (Chip.foldl_accept_select _ rfl).symm

/-- Settles O39: both ends are what one sequence makes of a drained chip. -/
theorem initEndsInTheSameChip : Obligations.InitEndsInTheSameChip := by
  intro s₁ s₂ hcfg hv hwf₁ hwf₂ hd₁ hd₂ hr₁ hr₂
  obtain ⟨t₁, ht₁, -, -, hchip₁, -⟩ := exec_init hv hd₁ hr₁
  obtain ⟨t₂, ht₂, -, -, hchip₂, -⟩ := exec_init (hcfg ▸ hv) hd₂ hr₂
  refine ⟨t₁, t₂, ht₁, ht₂, ?_⟩
  rw [hchip₁, hchip₂, ← hcfg, bmc2_initFrames, active_initFrames]
  exact foldl_initFrames_eq hv hwf₁ hwf₂

end Sys2Proof.Machine

/-! SUPPORT. Proofs for the statements of spec/46_blitter.md and for the invariants that the engine rests on: what every
step keeps (R34, R55, R200, R201, R213, R410). -/

namespace Sys2Proof.Machine

/-! ## The invariant of the machine -/

/-- What the invariant says of the chip alone. -/
structure Chip.Inv (k : Chip) (c : Cfg) : Prop where
  mem : Memory.wf k.mem
  select : k.select = false
  mode : k.mode = none ∨ k.mode = some 1
  multiic : k.multiic = none ∨ k.multiic.map BitVec.toNat = some c.multiicOff
  latched : k.busy = true → ∃ v, k.active = some v ∧ v.fits

theorem State.inv_iff (s : State) : s.inv ↔ s.chip.Inv s.cfg ∧ s.pollsBounded ∧ s.faults.Nodup :=
  ⟨fun ⟨hmem, hsel, hmode, hmulti, hmove, hpolls, hfaults⟩ => ⟨⟨hmem, hsel, hmode, hmulti, hmove⟩, hpolls, hfaults⟩,
    fun ⟨⟨hmem, hsel, hmode, hmulti, hmove⟩, hpolls, hfaults⟩ => ⟨hmem, hsel, hmode, hmulti, hmove, hpolls, hfaults⟩⟩

/-- R410's bound lets one more poll see `BUSY = 1`. -/
def State.pollRoom (s : State) : Prop :=
  ∀ k, s.cfg.enginePollBound = some k → s.chip.busy = true → s.busyPolls < k

theorem State.raise_nodup {s : State} (h : s.faults.Nodup) (f : ChipFault) (b0 : Byte) (a : Option Nat) :
    (s.raise f b0 a).faults.Nodup := by
  rw [State.raise_faults]
  split
  · exact h
  · next hnew => exact List.nodup_append.mpr ⟨h, List.nodup_singleton _, by
      simpa using fun e he => ne_of_mem_of_not_mem he hnew⟩

theorem State.faultsOnce.nodup {s t : State} (h : s.faultsOnce t) (hs : s.faults.Nodup) : t.faults.Nodup := by
  rcases h with hf | ⟨f, b0, a, hf⟩
  · exact hf ▸ hs
  · exact hf ▸ State.raise_nodup hs f b0 a

/-! The engine between two frames (R410, R413). -/

theorem State.complete_inv {s : State} (h : s.inv) : s.complete.inv := by
  obtain ⟨hchip, -, hfaults⟩ := s.inv_iff.mp h
  exact s.complete.inv_iff.mpr ⟨{ hchip with mem := State.wf_complete hchip.mem, latched := nofun }, nofun, hfaults⟩

theorem State.engineGap_inv {s : State} (h : s.inv) (statusNext : Bool) : (s.engineGap statusNext).inv := by
  rcases s.engineGap_cases statusNext with ⟨-, hgap⟩ | ⟨-, -, hgap⟩ | ⟨-, -, -, hgap⟩ <;> rw [hgap]
  · exact h
  · exact State.complete_inv h
  · exact h

/-- Before a status frame the engine completes where R410's bound would not let the frame see `BUSY = 1`. -/
theorem State.engineGap_pollRoom (s : State) : (s.engineGap true).pollRoom := by
  intro k hk hb
  rcases s.engineGap_cases true with ⟨hidle, hgap⟩ | ⟨-, -, hgap⟩ | ⟨-, -, hroom, hgap⟩ <;> rw [hgap] at hk hb ⊢
  · rw [hidle] at hb
    cases hb
  · cases hb
  · have hk' : s.cfg.enginePollBound = some k := hk
    simpa [State.pollBoundReached, hk'] using hroom

theorem State.transfer_inv {s : State} (h : s.inv) (bytes : List Byte) : (s.transfer bytes).inv := by
  obtain ⟨hchip, hpolls, hfaults⟩ := (State.inv_iff _).mp (State.engineGap_inv h (isStatusFrame s.cfg.opmap bytes))
  exact (State.inv_iff _).mpr ⟨{ hchip with select := rfl }, hpolls, hfaults⟩

theorem State.transfer_pollRoom {s : State} {bytes : List Byte} {f1 f2 : Byte}
    (h : decodeFrame s.cfg.opmap bytes = .instr (.bmstatus f1 f2)) : (s.transfer bytes).pollRoom := by
  have hstatus : isStatusFrame s.cfg.opmap bytes = true := by simp [isStatusFrame, h]
  have hroom := s.engineGap_pollRoom
  rw [← hstatus] at hroom
  exact hroom

/-! The port's step for each command (R190). -/

theorem State.registerFrame_chipInv {s : State} (h : s.chip.Inv s.cfg) (n : Nat) (c : Cmd) {f : Option ChipFault}
    {w : Chip} (hw : f = none → w.Inv s.cfg) : (s.registerFrame n c f w).chip.Inv s.cfg := by
  cases f with
  | none => exact hw rfl
  | some f => exact h

theorem State.portWrite_chipInv {s : State} (h : s.chip.Inv s.cfg) (a : BitVec 24) (data : List Byte) :
    (s.portWrite a data).chip.Inv s.cfg := by
  unfold State.portWrite
  split
  · exact h
  · next hne =>
    have hpos : 1 ≤ data.length := List.length_pos_iff.mpr (by simpa using hne)
    split
    · exact h
    · next hnone =>
      obtain ⟨-, -, hfit⟩ := (s.memoryFault_eq_none a hpos).mp hnone
      exact { h with mem := Memory.wf_write h.mem hfit }

theorem State.portRead_chip (s : State) (a : BitVec 24) (filler : List Byte) :
    (s.portRead a filler).chip = s.chip := by
  unfold State.portRead
  split
  · rfl
  · split
    · rfl
    · split <;> rfl

/-- A started move is the one the checks of `BMSTART` accepted (R47, R213). -/
theorem State.portBmstart_chipInv {s : State} (h : s.chip.Inv s.cfg) : s.portBmstart.chip.Inv s.cfg := by
  unfold State.portBmstart
  split
  · exact h
  · next v hv => exact { h with latched := fun _ => ⟨v, rfl, State.startCheck_fits hv⟩ }

theorem State.portInstr_chipInv {s : State} (h : s.chip.Inv s.cfg) (i : Instr) : (s.portInstr i).chip.Inv s.cfg := by
  cases i with
  | multiic d =>
    refine State.registerFrame_chipInv h _ _ fun hnone => { h with multiic := .inr ?_ }
    simpa using hnone
  | wrsr d => exact State.registerFrame_chipInv h _ _ fun _ => { h with mode := .inr rfl }
  | write a data => exact State.portWrite_chipInv h a data
  | read a filler =>
    have hchip : (s.portInstr (.read a filler)).chip = s.chip := s.portRead_chip a filler
    exact hchip ▸ h
  | bmstart => exact State.portBmstart_chipInv h
  | picstart | picend | linelen | vdctrl1 | indexstart | vdctrl2 | program | bmc1 | bmc2 =>
    exact State.registerFrame_chipInv h _ _ fun _ => { h with }
  | _ => exact h

theorem State.registerFrame_busyPolls (s : State) (n : Nat) (c : Cmd) (f : Option ChipFault) (w : Chip) :
    (s.registerFrame n c f w).busyPolls = s.busyPolls := by
  cases f <;> rfl

/-- Only a move's start and a status frame change the count of polls that R410 bounds. -/
theorem State.portInstr_busyPolls (s : State) {i : Instr} (hstart : i ≠ .bmstart)
    (hstatus : ∀ f1 f2, i ≠ .bmstatus f1 f2) : (s.portInstr i).busyPolls = s.busyPolls := by
  cases i with
  | bmstart => exact absurd rfl hstart
  | bmstatus f1 f2 => exact absurd rfl (hstatus f1 f2)
  | write a data =>
    simp only [State.portInstr, State.portWrite]
    split
    · rfl
    · split <;> rfl
  | read a filler =>
    simp only [State.portInstr, State.portRead]
    split
    · rfl
    · split
      · rfl
      · split <;> rfl
  | multiic | wrsr | picstart | picend | linelen | vdctrl1 | indexstart | vdctrl2 | program | bmc1 | bmc2 =>
    exact s.registerFrame_busyPolls _ _ _ _
  | _ => rfl

theorem State.portBmstart_pollsBounded {s : State} (h : s.pollsBounded) : s.portBmstart.pollsBounded := by
  unfold State.portBmstart
  split
  · exact h
  · exact fun k _ _ => Nat.zero_le k

theorem State.portBmstatus_pollsBounded {s : State} (h : s.pollRoom) : s.portBmstatus.pollsBounded := by
  intro k hk hb
  have hb' : s.chip.busy = true := hb
  have hlt : s.busyPolls < k := h k hk hb'
  simpa [State.portBmstatus, hb'] using Nat.succ_le_of_lt hlt

theorem State.portInstr_pollsBounded {s : State} (h : s.pollsBounded) {i : Instr}
    (hroom : ∀ f1 f2, i = .bmstatus f1 f2 → s.pollRoom) : (s.portInstr i).pollsBounded := by
  by_cases hstart : i = .bmstart
  · subst hstart
    exact State.portBmstart_pollsBounded h
  · by_cases hstatus : ∃ f1 f2, i = .bmstatus f1 f2
    · obtain ⟨f1, f2, rfl⟩ := hstatus
      exact State.portBmstatus_pollsBounded (hroom f1 f2 rfl)
    · have hpolls := s.portInstr_busyPolls hstart fun f1 f2 hi => hstatus ⟨f1, f2, hi⟩
      intro k hk hb
      rw [(s.portInstr_sameHost i).1] at hk
      rw [s.portInstr_busy hstart] at hb
      exact hpolls ▸ h k hk hb

/-- The port's step keeps the invariant, where a status frame has room under R410's bound. -/
theorem State.portInstr_inv {s : State} (h : s.inv) {i : Instr}
    (hroom : ∀ f1 f2, i = .bmstatus f1 f2 → s.pollRoom) : (s.portInstr i).inv := by
  obtain ⟨hchip, hpolls, hfaults⟩ := s.inv_iff.mp h
  have hcfg : (s.portInstr i).cfg = s.cfg := (s.portInstr_sameHost i).1
  exact (State.inv_iff _).mpr
    ⟨hcfg ▸ State.portInstr_chipInv hchip i, State.portInstr_pollsBounded hpolls hroom,
      (s.portInstr_faultsOnce i).nodup hfaults⟩

theorem State.rejectFrame_inv {s : State} (h : s.inv) (f : ChipFault) (b0 : Byte) (payload : List Byte) :
    (s.rejectFrame f b0 payload).inv := by
  obtain ⟨hchip, hpolls, hfaults⟩ := s.inv_iff.mp h
  exact (State.inv_iff _).mpr ⟨hchip, hpolls, (s.rejectFrame_faultsOnce f b0 payload).nodup hfaults⟩

/-! Frames, host ops and steps. -/

theorem State.sendFrame_inv {s : State} (h : s.inv) (bytes : List Byte) : (s.sendFrame bytes).inv := by
  have ht := State.transfer_inv h bytes
  have hport : ((s.transfer bytes).portFrame bytes).inv := by
    unfold State.portFrame
    rw [(s.transfer_host bytes).1]
    split
    · next i hi => exact State.portInstr_inv ht fun f1 f2 hst => State.transfer_pollRoom (hst ▸ hi)
    · exact State.rejectFrame_inv ht _ _ _
    · exact State.rejectFrame_inv ht _ _ _
    all_goals exact ht
  exact hport

theorem State.inv_hostRelation : HostRelation fun s t => s.inv → t.inv where
  refl _ := id
  trans h g := g ∘ h
  send _ _ _ h := State.sendFrame_inv h _
  fail _ _ := id
  pending _ _ := id
  burst _ _ := id
  clip _ := id

theorem exec_host_inv {i : Instr} {s t : State} (hi : i.isFrame = false) (h : exec i s = .next t) (hs : s.inv) :
    t.inv := by
  obtain ⟨r, hrun, hend⟩ := exec_host hi s
  have hlast : r.last.inv := State.inv_hostRelation.hostRun hrun hs
  rcases hend with ⟨q, hq, -⟩ | ⟨u, rfl, hu⟩
  · obtain rfl := Host.Outcome.next.inj (hq.symm.trans h)
    exact hlast
  · obtain rfl := Host.Outcome.next.inj (hu.symm.trans h)
    exact hlast

/-- The invariant holds of what a step takes, and a status frame that is to run has room under R410's bound. -/
def Fetched.inv : Fetched → Prop
  | .run i t => t.inv ∧ ∀ f1 f2, i = .bmstatus f1 f2 → t.pollRoom
  | .settled t => t.inv
  | .fault _ | .refused _ => True

/-- No call is a status frame (R133). -/
theorem callInstr_ne_bmstatus (code : Nat) (args : List Nat) (f1 f2 : Byte) :
    callInstr code args ≠ some (.bmstatus f1 f2) := by
  unfold callInstr
  split <;> nofun

theorem decodeCall_ne_bmstatus (code : Nat) (args : List Nat) (f1 f2 : Byte) :
    decodeCall code args ≠ .instr (.bmstatus f1 f2) := by
  unfold decodeCall
  split
  · next i hi =>
    rintro ⟨⟩
    exact callInstr_ne_bmstatus code args f1 f2 hi
  · split <;> nofun

theorem State.fetchRequest_inv {s : State} (h : s.inv) (r : Request) : (s.fetchRequest r).inv := by
  cases r with
  | frame bytes =>
    have ht := State.transfer_inv h bytes
    unfold State.fetchRequest
    dsimp only
    split
    · next i hi => exact ⟨ht, fun f1 f2 hst => State.transfer_pollRoom (hst ▸ hi)⟩
    · exact State.rejectFrame_inv ht _ _ _
    · exact State.rejectFrame_inv ht _ _ _
    all_goals exact h
  | call code args =>
    unfold State.fetchRequest
    dsimp only
    split
    · next i hi => exact ⟨h, fun f1 f2 hst => absurd (hst ▸ hi) (decodeCall_ne_bmstatus code args f1 f2)⟩
    · trivial
    · trivial
    all_goals exact h

theorem State.resetWith_inv (c : Cfg) : (State.resetWith c).inv :=
  (State.inv_iff _).mpr ⟨⟨Memory.wf_nil, rfl, .inl rfl, .inl rfl, nofun⟩, nofun, List.nodup_nil⟩

theorem State.fetch_inv {s : State} (h : s.inv) : s.fetch.inv := by
  unfold State.fetch
  split
  · exact h
  · split
    · exact State.engineGap_inv h false
    · next r rest _ => exact State.fetchRequest_inv (s := { s with inputs := rest }) h r
    · exact h
    · exact h
    · exact State.resetWith_inv s.cfg

theorem exec_inv {i : Instr} {s t : State} (h : exec i s = .next t) (hs : s.inv)
    (hroom : ∀ f1 f2, i = .bmstatus f1 f2 → s.pollRoom) : t.inv := by
  cases hi : i.isFrame with
  | true =>
    obtain rfl := Host.Outcome.next.inj ((exec_frame hi s).symm.trans h)
    exact State.portInstr_inv hs hroom
  | false => exact exec_host_inv hi h hs

/-- Settles O44: what a step takes has the invariant, and so has what the taken instruction makes of it. -/
theorem stepKeepsTheInvariant : Obligations.StepKeepsTheInvariant := by
  intro s t hs h
  have hfetch := State.fetch_inv hs
  unfold step at h
  cases hf : s.fetch with
  | run i u =>
    rw [hf] at h hfetch
    obtain ⟨hu, hroom⟩ := hfetch
    exact exec_inv h hu hroom
  | settled u =>
    rw [hf] at h hfetch
    exact Host.Outcome.next.inj h ▸ hfetch
  | fault r => simp [hf] at h
  | refused r => simp [hf] at h

end Sys2Proof.Machine

/-! SUPPORT. Why no host op makes the chip fault `F_BUSY_ACCESS` (R428): a memory frame is sent only after a drain, and
a move that runs is one the block knows of. -/

namespace Sys2Proof.Machine

/-! ## How a part of a host op ends -/

/-- No reset cuts the part of a host op short; where it goes on, `Q` holds of its state, and where it fails, `E` of its
error and its state. -/
def Run.meets {α : Type} (Q : State → Prop) (E : Err → State → Prop) : Run α → Prop
  | .ok _ t => Q t
  | .err e t => E e t
  | .cut _ => False

section Meets

variable {α β : Type} {Q Q' : State → Prop} {E : Err → State → Prop}

theorem Run.meets.andThen {r : Run α} {k : α → State → Run β} (hr : r.meets Q E)
    (hk : ∀ a t, Q t → (k a t).meets Q' E) : (r.andThen k).meets Q' E := by
  cases r with
  | ok a t => exact hk a t hr
  | err e t => exact hr
  | cut t => exact hr

theorem Run.meets.mono {r : Run α} (hr : r.meets Q E) (h : ∀ t, Q t → Q' t) : r.meets Q' E := by
  cases r with
  | ok a t => exact h t hr
  | err e t => exact hr
  | cut t => exact hr

/-- A check of a host op, which fails or goes on. -/
theorem Run.meets.check {s : State} {c : Prop} [Decidable c] {e : Err} {r : Run α} (he : E e (s.fail e))
    (hr : ¬ c → r.meets Q E) : (if c then s.failRun e else r).meets Q E := by
  split
  · exact he
  · exact hr ‹_›

/-- The check of the configuration, with which a host op begins (R8). -/
theorem Run.meets.config {s : State} {r : Run α} (he : E .config (s.fail .config))
    (hr : s.cfg.valid = true → r.meets Q E) : (if !s.cfg.valid then s.failRun .config else r).meets Q E :=
  .check he fun h => hr (by simpa using h)

/-- A run that is not cut short ends in one of the two ways. -/
theorem Run.meets.last {r : Run α} (h : r.meets Q fun _ => Q) : Q r.last := by
  cases r with
  | ok a t => exact h
  | err e t => exact h
  | cut t => exact h.elim

end Meets

/-! ## Frames that do not touch a busy memory -/

theorem State.mem_raise_faults {s : State} {f : ChipFault} {b0 : Byte} {a : Option Nat} {e : FaultEntry}
    (h : e ∈ (s.raise f b0 a).faults) : e ∈ s.faults ∨ e = ⟨f, b0, a⟩ := by
  rw [State.raise_faults] at h
  split at h
  · exact .inl h
  · simpa using h

/-- From `s` to `t` no entry of `F_BUSY_ACCESS` has been added (R196). -/
def State.noBusyAccess (s t : State) : Prop := ∀ e ∈ t.faults, e.name = .busyAccess → e ∈ s.faults

theorem State.noBusyAccess_of_eq {s t : State} (h : t.faults = s.faults) : s.noBusyAccess t :=
  fun _ he _ => h ▸ he

theorem State.noBusyAccess.trans {s t u : State} (hst : s.noBusyAccess t) (htu : t.noBusyAccess u) :
    s.noBusyAccess u :=
  fun e he hname => hst e (htu e he hname) hname

theorem State.raise_noBusyAccess (s : State) {f : ChipFault} (hf : f ≠ .busyAccess) (b0 : Byte) (a : Option Nat) :
    s.noBusyAccess (s.raise f b0 a) := by
  intro e he hname
  refine (State.mem_raise_faults he).resolve_right ?_
  rintro rfl
  exact hf hname

theorem State.registerFrame_noBusyAccess (s : State) (n : Nat) (c : Cmd) {f : Option ChipFault} (w : Chip)
    (hf : f ≠ some .busyAccess) : s.noBusyAccess (s.registerFrame n c f w) := by
  cases f with
  | none => exact State.noBusyAccess_of_eq rfl
  | some f => exact s.raise_noBusyAccess (fun h => hf (congrArg some h)) _ _

theorem reservedFault_ne_busyAccess (bad : Bool) : reservedFault bad ≠ some .busyAccess := by
  cases bad <;> nofun

theorem State.memoryFault_ne_busyAccess {s : State} (hb : s.chip.busy = false) (a : BitVec 24) (k : Nat) :
    s.memoryFault a k ≠ some .busyAccess := by
  unfold State.memoryFault
  split
  · nofun
  · split
    · nofun
    · rw [if_neg (by simp [hb])]
      split <;> nofun

theorem State.startCheck_ne_busyAccess (s : State) : s.startCheck ≠ .error .busyAccess := by
  unfold State.startCheck
  split
  · nofun
  · split
    · dsimp only
      repeat' split
      all_goals nofun
    · nofun

/-- No frame on an idle chip touches a busy memory (R196). -/
theorem State.portInstr_noBusyAccess {s : State} (hb : s.chip.busy = false) (i : Instr) :
    s.noBusyAccess (s.portInstr i) := by
  have raised : ∀ {a k f} b0 x, s.memoryFault a k = some f → s.noBusyAccess (s.raise f b0 x) := fun b0 x hf =>
    s.raise_noBusyAccess (fun h => State.memoryFault_ne_busyAccess hb _ _ (h ▸ hf)) b0 x
  cases i with
  | multiic d => exact s.registerFrame_noBusyAccess _ _ _ (by split <;> nofun)
  | wrsr d =>
    refine s.registerFrame_noBusyAccess _ _ _ ?_
    split
    · nofun
    · split <;> nofun
  | write a data =>
    simp only [State.portInstr, State.portWrite]
    split
    · exact s.raise_noBusyAccess (f := .frameLength) nofun _ _
    · split
      · next hf => exact raised _ _ hf
      · exact State.noBusyAccess_of_eq rfl
  | read a filler =>
    simp only [State.portInstr, State.portRead]
    split
    · exact s.raise_noBusyAccess (f := .frameLength) nofun _ _
    · split
      · next hf => exact raised _ _ hf
      · split
        · exact s.raise_noBusyAccess (f := .unwrittenRead) nofun _ _
        · exact State.noBusyAccess_of_eq rfl
  | bmstart =>
    simp only [State.portInstr, State.portBmstart]
    split
    · next f hf => exact s.raise_noBusyAccess (fun h => s.startCheck_ne_busyAccess (h ▸ hf)) _ _
    · exact State.noBusyAccess_of_eq rfl
  | picstart | picend | linelen | vdctrl1 | indexstart | bmc1 =>
    exact s.registerFrame_noBusyAccess _ _ _ (reservedFault_ne_busyAccess _)
  | vdctrl2 | program | bmc2 => exact s.registerFrame_noBusyAccess _ _ _ nofun
  | _ => exact State.noBusyAccess_of_eq rfl

theorem State.sendFrame_noBusyAccess {s : State} (hb : s.chip.busy = false) (bytes : List Byte) :
    s.noBusyAccess (s.sendFrame bytes) := by
  obtain ⟨-, -, -, -, -, hfaults, -⟩ := s.transfer_host bytes
  have htransfer : s.noBusyAccess (s.transfer bytes) := State.noBusyAccess_of_eq hfaults
  have hidle : (s.transfer bytes).chip.busy = false := by rw [State.transfer_idle hb]; exact hb
  have hport : (s.transfer bytes).noBusyAccess ((s.transfer bytes).portFrame bytes) := by
    unfold State.portFrame
    split
    · exact State.portInstr_noBusyAccess hidle _
    · exact State.raise_noBusyAccess _ (f := .unknownOpcode) nofun _ _
    · exact State.raise_noBusyAccess _ (f := .frameLength) nofun _ _
    all_goals exact State.noBusyAccess_of_eq rfl
  exact htransfer.trans hport

/-! ## Host ops -/

/-- In a host op that began in `s`, with no `HOST_RESET` on its way: no frame so far has touched a busy memory. -/
structure State.Unharmed (s t : State) : Prop where
  cfg : t.cfg = s.cfg
  noReset : t.hostResetIn = none
  faults : s.noBusyAccess t

/-- As `State.Unharmed`, with a running move that the block knows of, if any (R428). -/
structure State.MoveKnown (s t : State) : Prop extends s.Unharmed t where
  known : t.chip.busy = true → t.block.movePending = true

/-- As `State.Unharmed`, with no move running: what a drain leaves (R428). -/
structure State.Drained (s t : State) : Prop extends s.Unharmed t where
  idle : t.chip.busy = false

theorem State.Drained.moveKnown {s t : State} (h : s.Drained t) : s.MoveKnown t :=
  { h with known := by simp [h.idle] }

/-- The part of a host op that began in `s` ends with any running move known to the block. -/
def Run.endsKnown {α : Type} (s : State) : Run α → Prop := Run.meets s.MoveKnown fun _ => s.MoveKnown

/-- As `Run.endsKnown`, with no move running where it goes on. -/
def Run.endsDrained {α : Type} (s : State) : Run α → Prop := Run.meets s.Drained fun _ => s.MoveKnown

theorem Run.endsDrained.endsKnown {α : Type} {s : State} {r : Run α} (h : r.endsDrained s) : r.endsKnown s :=
  h.mono fun _ => State.Drained.moveKnown

theorem State.Unharmed.sendFrame {s t : State} (h : s.Unharmed t) {bytes : List Byte}
    (hf : t.noBusyAccess (t.sendFrame bytes)) : s.Unharmed (t.sendFrame bytes) := by
  obtain ⟨hcfg, -, -, -, -, hr⟩ := t.sendFrame_host bytes
  exact ⟨hcfg.trans h.cfg, by rw [hr, h.noReset]; rfl, h.faults.trans hf⟩

theorem State.Unharmed.emit_eq {s t : State} (h : s.Unharmed t) (i : Instr) :
    t.emit i = .ok (t.sendFrame (frameBytes t.cfg.opmap i)).response (t.sendFrame (frameBytes t.cfg.opmap i)) :=
  State.emit_eq (by simp [h.noReset]) i

/-- A frame that raises no fault, sent while a move may run. -/
theorem State.MoveKnown.sendFrame {s t : State} (h : s.MoveKnown t) {i : Instr} (hi : i ≠ .bmstart)
    (hf : (t.sendFrame (frameBytes t.cfg.opmap i)).faults = t.faults) :
    s.MoveKnown (t.sendFrame (frameBytes t.cfg.opmap i)) where
  toUnharmed := h.toUnharmed.sendFrame (State.noBusyAccess_of_eq hf)
  known hb := by
    obtain ⟨-, hblock, -⟩ := t.sendFrame_host (frameBytes t.cfg.opmap i)
    rw [hblock]
    refine h.known ?_
    by_contra hidle
    rw [State.sendFrame_idle (Bool.eq_false_iff.mpr hidle) hi] at hb
    cases hb

theorem State.MoveKnown.emit {s t : State} (h : s.MoveKnown t) {i : Instr} (hi : i ≠ .bmstart)
    (hf : (t.sendFrame (frameBytes t.cfg.opmap i)).faults = t.faults) : (t.emit i).endsKnown s := by
  rw [h.emit_eq]
  exact h.sendFrame hi hf

theorem State.Unharmed.setBlock {s t : State} (h : s.Unharmed t) (b : Block) : s.Unharmed (t.setBlock b) :=
  ⟨h.cfg, h.noReset, h.faults⟩

theorem State.MoveKnown.fail {s t : State} (h : s.MoveKnown t) (e : Err) : s.MoveKnown (t.fail e) :=
  ⟨h.setBlock _, h.known⟩

theorem State.MoveKnown.failRun {α : Type} {s t : State} (h : s.MoveKnown t) (e : Err) :
    (t.failRun e : Run α).endsKnown s := h.fail e

/-- Any frame but a `BMSTART` may be sent after a drain. -/
theorem State.Drained.emit {s t : State} (h : s.Drained t) {i : Instr} (hi : i ≠ .bmstart) :
    (t.emit i).endsDrained s := by
  rw [h.emit_eq]
  exact { h.toUnharmed.sendFrame (State.sendFrame_noBusyAccess h.idle _) with
    idle := State.sendFrame_idle h.idle hi }

theorem State.Drained.emitAll {s t : State} (h : s.Drained t) {is : List Instr} (his : .bmstart ∉ is) :
    (State.emitAll is t).endsDrained s := by
  induction is generalizing t with
  | nil => exact h
  | cons i is ih =>
    have hi : i ≠ .bmstart := (List.ne_of_not_mem_cons his).symm
    exact (h.emit hi).andThen fun _ u hu => ih hu (List.not_mem_of_not_mem_cons his)

/-- A move's start, which the block notes as pending (R424). -/
theorem State.Drained.start {s t : State} (h : s.Drained t) :
    ((t.emit .bmstart).andThen fun _ u => .ok () (u.setPending true)).endsKnown s := by
  rw [h.emit_eq]
  exact { h.toUnharmed.sendFrame (State.sendFrame_noBusyAccess h.idle _) with known := fun _ => rfl }

section Valid

variable {s t : State} (hv : s.cfg.valid = true)
include hv

/-- A wait ends with no move running, or fails with the move that runs still known to the block (R427). -/
theorem State.MoveKnown.pollLoop (h : s.MoveKnown t) (n : Nat) : (State.pollLoop n t).endsDrained s := by
  induction n generalizing t with
  | zero => exact h.fail .timeout
  | succ n ih =>
    have hm : t.cfg.opmap.injective = true := h.cfg ▸ Cfg.valid_injective hv
    obtain ⟨hbusy, hf, -⟩ := State.send_status hm
    have hsent : s.MoveKnown (t.sendFrame (frameBytes t.cfg.opmap statusFrame)) := h.sendFrame nofun hf
    rw [State.pollLoop, h.emit_eq, Run.andThen_ok, hbusy]
    split
    · exact ih hsent
    · next hidle => exact { hsent with idle := by simpa using hidle }

theorem State.MoveKnown.drain (h : s.MoveKnown t) : t.drain.endsDrained s := by
  unfold State.drain
  split
  · exact h.pollLoop hv _
  · next hp => exact { h with idle := Bool.eq_false_iff.mpr fun hb => hp (h.known hb) }

theorem State.MoveKnown.drainAndSend (h : s.MoveKnown t) {i : Instr} (hi : i ≠ .bmstart) :
    (t.drainAndSend i).endsKnown s :=
  Run.endsDrained.endsKnown <| (h.drain hv).andThen fun _ _ hu => (hu.emit hi).andThen fun _ _ hx => hx

theorem State.MoveKnown.drainAndRead (h : s.MoveKnown t) (a : Nat) : (t.drainAndRead a).endsKnown s :=
  Run.endsDrained.endsKnown <| (h.drain hv).andThen fun _ _ hu =>
    (hu.emit (i := readByteFrame a) nofun).andThen fun _ _ hx => hx

/-- The parameter frames of a `BLIT` may be sent while the old move runs; its start comes after the wait (R424). -/
theorem State.MoveKnown.blitFrames (h : s.MoveKnown t) (src dst w height stride : Nat) :
    (t.blitFrames src dst w height stride).endsKnown s := by
  have hm : ∀ {u}, s.MoveKnown u → u.cfg.opmap.injective = true := fun hu => hu.cfg ▸ Cfg.valid_injective hv
  obtain ⟨-, -, -, -, -, -, hlpf⟩ := Cfg.valid_levels hv
  rw [← h.cfg] at hlpf
  obtain ⟨hflags, -⟩ := blitFlags_bits t.cfg hlpf (blitDescends src dst)
    (blitAddress (blitDescends src dst) src w height stride) (blitAddress (blitDescends src dst) dst w height stride)
  obtain ⟨-, -, -, hfaults, -⟩ := State.send_bmc1 (hm h) _ _ _ hflags
  refine (h.emit (i := blitFrame1 t.cfg src dst w height stride) nofun hfaults).andThen fun _ u hu => ?_
  obtain ⟨-, -, -, hfaults', -⟩ := State.send_bmc2 (hm hu) _ _ _
  refine (hu.emit (i := blitFrame2 w height stride) nofun hfaults').andThen fun _ x hx => ?_
  exact (hx.pollLoop hv _).andThen fun _ _ hy => hy.start

end Valid

theorem State.MoveKnown.opBlit {s t : State} (h : s.MoveKnown t) (src dst w height stride : Nat) :
    (t.opBlit src dst w height stride).endsKnown s := by
  refine .config (h.fail _) fun hv => ?_
  split
  · exact h
  · exact .check (h.fail _) fun _ => .check (h.fail _) fun _ => .check (h.fail _) fun _ => .check (h.fail _) fun _ =>
      h.blitFrames (h.cfg ▸ hv) _ _ _ _ _

theorem State.MoveKnown.blitChunks {s t : State} (h : s.MoveKnown t) (src dst w height stride : Nat) (is : List Nat) :
    (State.blitChunks src dst w height stride is t).endsKnown s := by
  induction is generalizing t with
  | nil => exact h
  | cons i is ih => exact (h.opBlit _ _ _ _ _).andThen fun _ u hu => ih hu

section Op

variable {s : State} (h : s.MoveKnown s)
include h

theorem State.MoveKnown.opInit : s.opInit.endsKnown s :=
  .config (h.fail _) fun hv => Run.endsDrained.endsKnown <|
    (h.drain hv).andThen fun _ t ht => (ht.emitAll (bmstart_not_mem_initBefore t.cfg)).andThen fun _ u hu =>
      have hburst : s.Drained (u.setBurstOn true) := ⟨hu.setBlock _, hu.idle⟩
      hburst.emitAll (bmstart_not_mem_initAfter u.cfg)

theorem State.MoveKnown.opWriteIndexEntry (line kind value : Nat) :
    (s.opWriteIndexEntry line kind value).endsKnown s := by
  refine .config (h.fail _) fun hv => .check (h.fail _) fun _ => ?_
  split
  · exact h.failRun _
  · exact h.drainAndSend hv nofun

theorem State.MoveKnown.opFillProtoline (n offset count value : Nat) :
    (s.opFillProtoline n offset count value).endsKnown s := by
  refine .config (h.fail _) fun hv => .check (h.fail _) fun _ => ?_
  split
  · exact h
  · exact h.drainAndSend hv nofun

theorem State.MoveKnown.opSetColorBurst (enable : Nat) : (s.opSetColorBurst enable).endsKnown s :=
  .config (h.fail _) fun hv => .check (h.fail _) fun _ =>
    (h.drainAndSend hv (bmstart_ne_burstFrame s.cfg (enable == 1)).symm).andThen fun _ _ ht =>
      ⟨ht.setBlock _, ht.known⟩

theorem State.MoveKnown.opWritePixel (x y color : Nat) : (s.opWritePixel x y color).endsKnown s := by
  refine .config (h.fail _) fun hv => .check (h.fail _) fun _ => ?_
  split
  · exact ⟨h.setBlock _, h.known⟩
  · exact h.drainAndSend hv nofun

theorem State.MoveKnown.opBlitSplit (src dst w height stride : Nat) :
    (s.opBlitSplit src dst w height stride).endsKnown s := by
  refine .config (h.fail _) fun _ => ?_
  split
  · exact h
  · exact .check (h.fail _) fun _ => .check (h.fail _) fun _ => .check (h.fail _) fun _ => .check (h.fail _) fun _ =>
      h.blitChunks _ _ _ _ _ _

/-- Every host op keeps a running move known to the block and touches no busy memory (R428). -/
theorem State.MoveKnown.hostRun {i : Instr} {r : Run Nat} (hrun : s.hostRun i = some r) : r.endsKnown s := by
  have code : ∀ {q : Run Unit}, q.endsKnown s → (q.andThen fun _ t => Run.ok 0 t).endsKnown s :=
    fun hq => Run.meets.andThen hq fun _ _ ht => ht
  cases i with
  | init => cases hrun; exact code h.opInit
  | protolineAddress | pictureLineAddress | pixelAddress =>
    cases hrun; exact .config (h.fail _) fun _ => .check (h.fail _) fun _ => h
  | writeIndexEntry => cases hrun; exact code (h.opWriteIndexEntry _ _ _)
  | fillProtoline => cases hrun; exact code (h.opFillProtoline _ _ _ _)
  | setColorBurst => cases hrun; exact code (h.opSetColorBurst _)
  | writePixel => cases hrun; exact code (h.opWritePixel _ _ _)
  | writeByte | writeWord =>
    cases hrun; exact code (.config (h.fail _) fun hv => .check (h.fail _) fun _ => h.drainAndSend hv nofun)
  | readPixel | readByte =>
    cases hrun; exact .config (h.fail _) fun hv => .check (h.fail _) fun _ => h.drainAndRead hv _
  | blit => cases hrun; exact code (h.opBlit _ _ _ _ _)
  | blitSplit => cases hrun; exact code (h.opBlitSplit _ _ _ _ _)
  | waitIdle => cases hrun; exact code (.config (h.fail _) fun hv => (h.pollLoop hv _).endsKnown)
  | readStatus => cases hrun; exact h
  | _ => cases hrun

end Op

/-- Settles O48: memory frames are sent only after a drain, and a started move is noted as pending. -/
theorem hostOpsNeverTouchBusyMemory : Obligations.HostOpsNeverTouchBusyMemory := by
  intro i s t hi hknown hreset h
  obtain ⟨r, hrun, hend⟩ := exec_host hi s
  have hstart : s.beginOp.MoveKnown s.beginOp := ⟨⟨rfl, hreset, State.noBusyAccess_of_eq rfl⟩, hknown⟩
  have hends : r.endsKnown s.beginOp := hstart.hostRun hrun
  rcases hend with ⟨q, hq, -⟩ | ⟨u, rfl, -⟩
  · obtain rfl := Host.Outcome.next.inj (hq.symm.trans h)
    have hlast : s.beginOp.MoveKnown r.last := Run.meets.last hends
    exact ⟨hlast.known, hlast.faults⟩
  · exact hends.elim

end Sys2Proof.Machine

/-! SUPPORT. The block-move engine: the overlap law (R415) and its finite delay (R410). -/

namespace Sys2Proof.Machine

/-! ## Copies -/

/-- `m'` is `m` with the bytes at the second addresses of `P` copied from the first, as if all of them were read before
any was written, and no other byte changed. -/
def Memory.copies (P : Nat → Nat → Prop) (m m' : Memory) : Prop :=
  (∀ a b, P a b → Memory.read m' b = Memory.read m a) ∧ ∀ x, (∀ a, ¬ P a x) → Memory.read m' x = Memory.read m x

theorem Memory.copies_congr {P Q : Nat → Nat → Prop} (h : ∀ a b, P a b ↔ Q a b) {m m' : Memory} :
    Memory.copies P m m' ↔ Memory.copies Q m m' := by
  simp only [Memory.copies, h]

theorem Memory.copies_refl {P : Nat → Nat → Prop} (h : ∀ a b, ¬ P a b) (m : Memory) : Memory.copies P m m :=
  ⟨fun a b hab => absurd hab (h a b), fun _ _ => rfl⟩

/-- Two copies one after the other, the first of which writes no byte that the second reads or writes. -/
theorem Memory.copies.trans {P Q : Nat → Nat → Prop} {m m' m'' : Memory} (hP : Memory.copies P m m')
    (hQ : Memory.copies Q m' m'') (h : ∀ a b a' b', P a b → Q a' b' → a' ≠ b ∧ b' ≠ b) :
    Memory.copies (fun a b => P a b ∨ Q a b) m m'' := by
  obtain ⟨hcopiedP, hkeptP⟩ := hP
  obtain ⟨hcopiedQ, hkeptQ⟩ := hQ
  refine ⟨fun a b hab => ?_, fun x hx => ?_⟩
  · rcases hab with hab | hab
    · rw [hkeptQ b fun a' hq => (h a b a' b hab hq).2 rfl, hcopiedP a b hab]
    · rw [hcopiedQ a b hab, hkeptP a fun a' hp => (h a' a a b hp hab).1 rfl]
  · rw [hkeptQ x fun a hq => hx a (.inr hq), hkeptP x fun a hp => hx a (.inl hp)]

/-! ## The overlap law -/

theorem ActiveMove.copy_copies (v : ActiveMove) (m : Memory) (o : Nat) :
    Memory.copies (fun a b => a = v.at v.src o ∧ b = v.at v.dst o) m (v.copy m o) := by
  refine ⟨?_, fun x hx => ?_⟩
  · rintro a b ⟨rfl, rfl⟩
    simp [ActiveMove.copy, Memory.read_put]
  · have hne : x ≠ v.at v.dst o := fun h => hx _ ⟨rfl, h⟩
    simp [ActiveMove.copy, Memory.read_put, hne]

/-- A loop none of whose assignments writes what a later one reads or writes (R413). -/
theorem ActiveMove.foldl_copy_copies (v : ActiveMove) {os : List Nat}
    (h : os.Pairwise fun o o' => v.at v.src o' ≠ v.at v.dst o ∧ v.at v.dst o' ≠ v.at v.dst o) (m : Memory) :
    Memory.copies (fun a b => ∃ o ∈ os, a = v.at v.src o ∧ b = v.at v.dst o) m (os.foldl v.copy m) := by
  induction os generalizing m with
  | nil => exact Memory.copies_refl (by simp) m
  | cons o os ih =>
    obtain ⟨hfirst, hrest⟩ := List.pairwise_cons.mp h
    refine (Memory.copies_congr fun a b => ?_).mp ((v.copy_copies m o).trans (ih hrest (v.copy m o)) ?_)
    · simp
    · rintro _ _ _ _ ⟨rfl, rfl⟩ ⟨o', ho', rfl, rfl⟩
      exact hfirst o' ho'

/-- In copy order the offsets rise, where a row does not reach into the next one or there is only one (R412). -/
theorem ActiveMove.offsets_pairwise {v : ActiveMove} (h : v.height = 1 ∨ v.width.toNat ≤ v.stride.toNat) :
    v.offsets.Pairwise (· < ·) := by
  unfold ActiveMove.offsets
  refine List.pairwise_flatMap.mpr ⟨fun r _ => ?_, ?_⟩
  · exact List.pairwise_map.mpr (List.pairwise_lt_range.imp fun hc => Nat.add_lt_add_left hc _)
  · rcases h with h | h
    · simp [h]
    · refine List.pairwise_lt_range.imp fun {r r'} hr => ?_
      simp only [List.mem_map, List.mem_range]
      rintro _ ⟨c, hc, rfl⟩ _ ⟨c', -, rfl⟩
      calc r * v.stride.toNat + c < (r + 1) * v.stride.toNat := by rw [Nat.succ_mul]; omega
        _ ≤ r' * v.stride.toNat + c' := Nat.le_add_right_of_le (Nat.mul_le_mul_right _ hr)

/-- The direction is away from the overlap: up where the destination lies below the source, down where above (R415). -/
def ActiveMove.awayFromOverlap (v : ActiveMove) : Prop :=
  if v.dir then v.src.toNat ≤ v.dst.toNat else v.dst.toNat ≤ v.src.toNat

/-- The overlap law (R415): each assignment writes below, or descending above, all that is still to be read. -/
theorem ActiveMove.run_copies {v : ActiveMove} (hv : v.fits) (hrow : v.height = 1 ∨ v.width.toNat ≤ v.stride.toNat)
    (haway : v.awayFromOverlap) (m : Memory) :
    Memory.copies (fun a b => ∃ o ∈ v.offsets, a = v.at v.src o ∧ b = v.at v.dst o) m (v.run m) := by
  refine v.foldl_copy_copies ?_ m
  refine (ActiveMove.offsets_pairwise hrow).imp_of_mem fun {o o'} ho ho' hlt => ?_
  have hfit := hv o' ho'
  rw [ActiveMove.at_src hv ho', ActiveMove.at_dst hv ho, ActiveMove.at_dst hv ho']
  unfold ActiveMove.awayFromOverlap at haway
  split <;> rename_i hd <;> simp only [hd, if_true, if_false, Bool.false_eq_true] at haway hfit <;> omega

/-- Settles O13: the copies of `ActiveMove.run_copies`, at the addresses of the offsets. -/
theorem engineOverlapLaw : Obligations.EngineOverlapLaw := by
  intro v m hv hrow haway
  obtain ⟨hcopied, hkept⟩ := ActiveMove.run_copies hv hrow haway m
  refine ⟨fun o ho => ?_, fun x hx => hkept x ?_⟩
  · have hread := hcopied _ _ ⟨o, ho, rfl, rfl⟩
    rw [ActiveMove.at_src hv ho, ActiveMove.at_dst hv ho] at hread
    split <;> simp_all
  · rintro _ ⟨o, ho, -, hxo⟩
    rw [ActiveMove.at_dst hv ho] at hxo
    exact hx o ho hxo

/-! ## The engine's delay -/

/-- With nothing from outside a step is a frame boundary for the engine alone (R410, R500). -/
theorem step_of_no_input {s : State} (hin : s.inputs = []) (hr : s.hostResetIn = none) :
    step s = .next (s.engineGap false) := by
  refine step_of_settled ?_
  unfold State.fetch
  rw [hr, hin]

theorem core_run_succ {s t : State} (h : step s = .next t) (k : Nat) :
    Sys2Proof.core.run (k + 1) s = Sys2Proof.core.run k t := by
  have hstep : Sys2Proof.core.step s = .next t := h
  simp only [Host.Core.run, hstep]

/-- Settles O14, by induction on the delay: each step takes one boundary off it, and the last completes the move. -/
theorem idleStepsCompleteTheMove : Obligations.IdleStepsCompleteTheMove := by
  intro s hb hin hr
  induction hd : s.delay generalizing s with
  | zero =>
    have hgap : s.engineGap false = s.complete := by simp [State.engineGap, hb, hd]
    exact ⟨s.complete, core_run_succ (hgap ▸ step_of_no_input hin hr) 0, rfl, rfl, rfl, rfl⟩
  | succ d ih =>
    have hgap : s.engineGap false = { s with delay := d } := by simp [State.engineGap, hb, hd]
    obtain ⟨t, hrun, ht⟩ := ih { s with delay := d } hb hin hr rfl
    exact ⟨t, (core_run_succ (hgap ▸ step_of_no_input hin hr) (d + 1)).trans hrun, ht⟩

end Sys2Proof.Machine

/-! SUPPORT. `WAIT_IDLE` (R432) and `BLIT` (R420–R425): the wait that ends, the checks in their order, and the rectangle
that the started move copies. -/

namespace Sys2Proof.Machine

/-! ## Waiting -/

theorem State.opWaitIdle_accepted {s : State} (hv : s.cfg.valid = true) : s.opWaitIdle = s.pollIdle := by
  simp [State.opWaitIdle, hv]

/-- Settles O29: the wait is the bounded one of R427, whatever is pending. -/
theorem waitIdleEndsTheMove : Obligations.WaitIdleEndsTheMove := by
  intro s hv hwait hr
  obtain ⟨-, -, -, hlimit⟩ := Cfg.valid_moveLimits hv
  obtain ⟨t, k, hrun, hcfg, hchip, hblock, hfaults, -, -, hsent⟩ :=
    State.pollLoop_ok (s := s.beginOp) (Cfg.valid_injective hv) hr (State.pollLimit_pos hlimit) hwait
  have hexec : exec .waitIdle s = finishCode (.ok () t) :=
    congrArg finishCode ((State.opWaitIdle_accepted (s := s.beginOp) hv).trans hrun)
  have hmem : t.chip.mem = s.settledMem := (congrArg Chip.mem hchip).trans s.idleChip_mem
  have hregs : t.chip.registers = s.chip.registers := (congrArg Chip.registers hchip).trans s.idleChip_registers
  have hbusy : t.chip.busy = false := (congrArg Chip.busy hchip).trans s.idleChip_busy
  refine ⟨_, hexec, rfl, hbusy, hmem, ⟨hregs, hfaults, hcfg⟩, hblock, ?_⟩
  simp [hsent]

/-! ## The checks of `BLIT` -/

section Checks

variable {s : State} {src dst w h stride : Nat} (hv : s.cfg.valid = true)
include hv

theorem State.opBlit_empty (hempty : w = 0 ∨ h = 0) : s.opBlit src dst w h stride = .ok () s := by
  simp [State.opBlit, hv, hempty]

/-- The check of R420 that fails first decides. -/
theorem State.opBlit_refused {e : Err} (hw : 0 < w) (hh : 0 < h)
    (he : if 256 < h ∨ 65535 < stride ∨ 65535 < w ∨ (1 < h ∧ stride < w) ∨ 131072 < src + (h - 1) * stride + w ∨
        131072 < dst + (h - 1) * stride + w then e = .range
      else if w < s.cfg.bmMinWidth then e = .blitNarrow
      else if s.cfg.bmMaxWidth < w then e = .blitWide
      else e = .blitOverlap1 ∧ overlapsByOne src dst h stride) : s.opBlit src dst w h stride = s.failRun e := by
  have hsome : ¬(w = 0 ∨ h = 0) := by omega
  simp only [State.opBlit, hv, Bool.not_true, Bool.false_eq_true, if_false, hsome, blitOutOfRange, decide_eq_true_eq]
  split at he
  case isTrue hrange => rw [if_pos hrange, he]
  case isFalse hrange =>
    rw [if_neg hrange]
    split at he
    case isTrue hnarrow => rw [if_pos hnarrow, he]
    case isFalse hnarrow =>
      rw [if_neg hnarrow]
      split at he
      case isTrue hwide => rw [if_pos hwide, he]
      case isFalse hwide =>
        obtain ⟨rfl, hoverlap⟩ := he
        rw [if_neg hwide, if_pos ((overlap1_iff_overlapsByOne _ _ _ _).mpr hoverlap)]

end Checks

/-- Settles O32: each case of the order is the check that fails first. -/
theorem blitChecksInOrder : Obligations.BlitChecksInOrder := by
  intro s src dst w h stride hvalid
  have hv : s.beginOp.cfg.valid = true := hvalid
  refine ⟨fun hempty => ?_, fun e hw hh he => ?_⟩
  · exact congrArg finishCode (State.opBlit_empty hv hempty)
  · exact State.refusesWith_of_finishCode rfl (State.opBlit_refused hv hw hh he)

/-! ## The rectangle a move copies -/

/-- Byte `a` of the source rectangle is to be copied to byte `b` of the destination rectangle (R422). -/
def rectCopy (src dst w h stride a b : Nat) : Prop :=
  ∃ r c, r < h ∧ c < w ∧ a = src + r * stride + c ∧ b = dst + r * stride + c

theorem Memory.movedRect_iff_copies {m m' : Memory} {src dst w h stride : Nat} :
    Memory.movedRect m m' src dst w h stride ↔ Memory.copies (rectCopy src dst w h stride) m m' := by
  refine and_congr ⟨fun hmoved a b => ?_, fun hmoved r c hr hc => ?_⟩
    (forall_congr' fun x => imp_congr_left ⟨fun hx a => ?_, fun hx r c hr hc hxb => ?_⟩)
  · rintro ⟨r, c, hr, hc, rfl, rfl⟩
    exact hmoved r c hr hc
  · exact hmoved _ _ ⟨r, c, hr, hc, rfl, rfl⟩
  · rintro ⟨r, c, hr, hc, -, rfl⟩
    exact hx r c hr hc rfl
  · exact hx _ ⟨r, c, hr, hc, rfl, hxb⟩

/-- The move that `BLIT` starts for a rectangle: from the first byte up, or from the last down (R422, R423). -/
structure ActiveMove.IsRect (v : ActiveMove) (src dst w h stride : Nat) : Prop where
  fits : v.fits
  width_eq : v.width.toNat = w
  height_eq : v.height.toNat = h
  stride_eq : v.stride.toNat = stride
  dir_eq : v.dir = decide (src < dst)
  src_eq : v.src.toNat = if src < dst then src + ((h - 1) * stride + (w - 1)) else src
  dst_eq : v.dst.toNat = if src < dst then dst + ((h - 1) * stride + (w - 1)) else dst

/-- Counted down from the last byte of a rectangle, the offset of byte `c` of row `r` is that of the byte as far from
the other corner. -/
theorem rect_from_last {base w h stride r c : Nat} (hr : r < h) (hc : c < w) :
    base + ((h - 1) * stride + (w - 1)) - (r * stride + c) = base + (h - 1 - r) * stride + (w - 1 - c) := by
  have hrow : (h - 1 - r) * stride + r * stride = (h - 1) * stride := by
    rw [← Nat.add_mul, Nat.sub_add_cancel (by omega)]
  omega

theorem ActiveMove.IsRect.copies {v : ActiveMove} {src dst w h stride : Nat} (hv : v.IsRect src dst w h stride)
    (hrow : h = 1 ∨ w ≤ stride) (m : Memory) : Memory.copies (rectCopy src dst w h stride) m (v.run m) := by
  have hrow' : v.height = 1 ∨ v.width.toNat ≤ v.stride.toNat := by
    rw [hv.width_eq, hv.stride_eq]
    exact hrow.imp_left fun h1 => BitVec.eq_of_toNat_eq (hv.height_eq.trans h1)
  have haway : v.awayFromOverlap := by
    unfold ActiveMove.awayFromOverlap
    rw [hv.dir_eq, hv.src_eq, hv.dst_eq]
    by_cases hlt : src < dst <;> simp only [hlt, decide_true, decide_false, if_true, if_false, Bool.false_eq_true] <;>
      omega
  have hmem {r c : Nat} (hr : r < h) (hc : c < w) : r * stride + c ∈ v.offsets :=
    ActiveMove.mem_offsets.mpr ⟨r, c, hv.height_eq ▸ hr, hv.width_eq ▸ hc, by rw [hv.stride_eq]⟩
  have hat {r c : Nat} (hr : r < h) (hc : c < w) :
      v.at v.src (r * stride + c) = (if src < dst then src + (h - 1 - r) * stride + (w - 1 - c)
        else src + r * stride + c) ∧
      v.at v.dst (r * stride + c) = if src < dst then dst + (h - 1 - r) * stride + (w - 1 - c)
        else dst + r * stride + c := by
    rw [ActiveMove.at_src hv.fits (hmem hr hc), ActiveMove.at_dst hv.fits (hmem hr hc), hv.dir_eq, hv.src_eq, hv.dst_eq]
    by_cases hlt : src < dst <;> simp [hlt, rect_from_last hr hc, Nat.add_assoc]
  refine (Memory.copies_congr fun a b => ⟨?_, ?_⟩).mp (ActiveMove.run_copies hv.fits hrow' haway m)
  · rintro ⟨o, ho, rfl, rfl⟩
    obtain ⟨r, c, hr, hc, rfl⟩ := ActiveMove.mem_offsets.mp ho
    rw [hv.height_eq] at hr
    rw [hv.width_eq] at hc
    rw [hv.stride_eq, (hat hr hc).1, (hat hr hc).2]
    split
    · exact ⟨h - 1 - r, w - 1 - c, by omega, by omega, rfl, rfl⟩
    · exact ⟨r, c, hr, hc, rfl, rfl⟩
  · rintro ⟨r, c, hr, hc, rfl, rfl⟩
    by_cases hlt : src < dst
    · have hr' : h - 1 - r < h := by omega
      have hc' : w - 1 - c < w := by omega
      refine ⟨_, hmem hr' hc', ?_⟩
      rw [(hat hr' hc').1, (hat hr' hc').2, if_pos hlt, if_pos hlt, show h - 1 - (h - 1 - r) = r by omega,
        show w - 1 - (w - 1 - c) = c by omega]
      exact ⟨rfl, rfl⟩
    · refine ⟨_, hmem hr hc, ?_⟩
      rw [(hat hr hc).1, (hat hr hc).2, if_neg hlt, if_neg hlt]
      exact ⟨rfl, rfl⟩

/-! ## `BLIT` -/

/-- A block move has been started from `s`, or several one after the other: the last one runs and is pending, and of the
rest of the machine only the SRAM and the block-move registers differ (R420, R424). -/
structure State.HasBlitted (s t : State) : Prop where
  busy : t.chip.busy = true
  block : t.block = { s.block with movePending := true }
  faults : t.faults = s.faults
  cfg : t.cfg = s.cfg
  noReset : t.hostResetIn = none
  registers : t.chip.otherRegisters = s.chip.otherRegisters
  lpf : t.chip.bmc1.map Bmc1.lpf = some (decide (s.cfg.lpfEnable = 1))

theorem State.idleChip_otherRegisters (s : State) : s.idleChip.otherRegisters = s.chip.otherRegisters := by
  rw [Chip.otherRegisters, s.idleChip_registers, Chip.otherRegisters]

/-- `BLIT` past its checks, where the wait ends: the rectangle is copied once the started move has completed. -/
theorem State.opBlit_moves {s : State} {src dst w h stride : Nat} (hv : s.cfg.valid = true) (hwait : s.waitEnds)
    (hr : s.hostResetIn = none) (hacc : s.cfg.acceptsMove src dst w h stride) :
    ∃ t, s.opBlit src dst w h stride = .ok () t ∧ s.HasBlitted t ∧ t.chip.mem = s.settledMem ∧
      Memory.copies (rectCopy src dst w h stride) s.settledMem t.settledMem := by
  obtain ⟨h0, h256, hst, hrow, hsrc, hdst, hmin, hmax, hoverlap⟩ := hacc
  have hov : overlap1 src dst h stride = false := by
    rwa [← overlap1_iff_overlapsByOne, Bool.not_eq_true] at hoverlap
  obtain ⟨t, v, hrun, hblock, hfaults, hcfg, hreset, hchip, hlpf, hrect⟩ :=
    s.opBlit_ok src dst w h stride hv hwait hr h0 h256 hst hrow hsrc hdst hmin hmax hov
  obtain ⟨hfits, hvw, hvh, hvs, hdir, hvsrc, hvdst⟩ := hrect
  have hv' : v.IsRect src dst w h stride := ⟨hfits, hvw, hvh, hvs, hdir, hvsrc, hvdst⟩
  obtain ⟨hmem, hsettled⟩ := State.settledMem_of_move hchip
  have hregs : t.chip.otherRegisters = s.chip.otherRegisters :=
    (congrArg Chip.otherRegisters hchip).trans s.idleChip_otherRegisters
  refine ⟨t, hrun, ⟨(congrArg Chip.busy hchip :), hblock, hfaults, hcfg, hreset, hregs, hlpf⟩, hmem, ?_⟩
  rw [hsettled]
  exact hv'.copies hrow _

/-- Settles O31: `State.opBlit_moves` in the terms of `Memory.movedRect`. -/
theorem blitMovesTheRectangle : Obligations.BlitMovesTheRectangle := by
  intro s src dst w h stride hv hwait hr hacc
  obtain ⟨t, hrun, ht, hmem, hcopies⟩ := State.opBlit_moves (s := s.beginOp) hv hwait hr hacc
  have hexec : exec (.blit src dst w h stride) s = finishCode (.ok () t) := congrArg finishCode hrun
  exact ⟨_, hexec, rfl, ht.busy, ht.block, ht.faults, ht.cfg, ht.registers, ht.lpf, hmem,
    Memory.movedRect_iff_copies.mpr hcopies⟩

end Sys2Proof.Machine

/-! SUPPORT. `BLIT_SPLIT` (R426, R429): its chunks, its checks in their order, and what the chunks copy one after the
other. -/

namespace Sys2Proof.Machine

/-! ## The chunks -/

/-- `OVERLAP1` depends on the difference of the two addresses alone (R213). -/
theorem overlapsByOne_shift {s d h stride : Nat} (x : Nat) :
    overlapsByOne (s + x) (d + x) h stride ↔ overlapsByOne s d h stride := by
  rw [← overlap1_iff_overlapsByOne, overlap1_shift, overlap1_iff_overlapsByOne]

theorem mem_chunkOrder {c : Cfg} {src dst w i : Nat} : i ∈ chunkOrder c src dst w ↔ i < chunkCount c w := by
  unfold chunkOrder
  split <;> simp

/-- The far end first where the destination lies above the source (R426). -/
theorem chunkOrder_pairwise (c : Cfg) (src dst w : Nat) :
    (chunkOrder c src dst w).Pairwise fun i j => if src < dst then j < i else i < j := by
  unfold chunkOrder
  split
  · exact List.pairwise_reverse.mpr List.pairwise_lt_range
  · exact List.pairwise_lt_range

section Chunks

variable {c : Cfg} {src dst w h stride : Nat} (hv : c.valid = true) (hacc : c.acceptsSplit src dst w h stride)
include hv hacc

/-- The arithmetic of the chunks (`chunk_bounds`) of a rectangle that passes the checks. -/
theorem chunk_bounds_accepted :
    1 ≤ chunkCount c w ∧ (∀ i, chunkWidth c w i ≤ c.bmMaxWidth) ∧ (∀ i, w / chunkCount c w ≤ chunkWidth c w i) ∧
      chunkOffset c w (chunkCount c w) = w ∧ ∀ i, chunkOffset c w (i + 1) = chunkOffset c w i + chunkWidth c w i := by
  obtain ⟨hmin, hle, -, -⟩ := Cfg.valid_moveLimits hv
  obtain ⟨-, -, -, -, -, -, -, hwmin, -⟩ := hacc
  exact chunk_bounds c w (by omega) (by omega)

/-- There is a first chunk. -/
theorem chunkOrder_eq_cons : ∃ i is, chunkOrder c src dst w = i :: is :=
  List.exists_cons_of_ne_nil (List.ne_nil_of_mem (mem_chunkOrder.mpr (chunk_bounds_accepted hv hacc).1))

theorem chunkOffset_mono {i j : Nat} (hij : i ≤ j) : chunkOffset c w i ≤ chunkOffset c w j := by
  obtain ⟨-, -, -, -, hsucc⟩ := chunk_bounds_accepted hv hacc
  exact monotone_nat_of_le_succ (fun n => hsucc n ▸ Nat.le_add_right _ _) hij

/-- A chunk begins where the one before it ends, and the last one ends with the rectangle. -/
theorem chunkOffset_add_le {i j : Nat} (hij : i < j) : chunkOffset c w i + chunkWidth c w i ≤ chunkOffset c w j := by
  obtain ⟨-, -, -, -, hsucc⟩ := chunk_bounds_accepted hv hacc
  exact hsucc i ▸ chunkOffset_mono hv hacc hij

theorem chunk_le_width {i : Nat} (hi : i < chunkCount c w) : chunkOffset c w i + chunkWidth c w i ≤ w := by
  obtain ⟨-, -, -, hend, -⟩ := chunk_bounds_accepted hv hacc
  exact (chunkOffset_add_le hv hacc hi).trans_eq hend

/-- Every column of the rectangle is one of some chunk. -/
theorem exists_chunk {x : Nat} (hx : x < w) :
    ∃ i < chunkCount c w, chunkOffset c w i ≤ x ∧ x < chunkOffset c w i + chunkWidth c w i := by
  obtain ⟨-, -, -, hend, hsucc⟩ := chunk_bounds_accepted hv hacc
  have find : ∀ n, x < chunkOffset c w n →
      ∃ i < n, chunkOffset c w i ≤ x ∧ x < chunkOffset c w i + chunkWidth c w i := by
    intro n
    induction n with
    | zero => exact fun hlt => absurd hlt (Nat.not_lt_zero x)
    | succ n ih =>
      intro hlt
      by_cases hn : x < chunkOffset c w n
      · obtain ⟨i, hi, hcol⟩ := ih hn
        exact ⟨i, Nat.lt_succ_of_lt hi, hcol⟩
      · exact ⟨n, Nat.lt_succ_self n, Nat.le_of_not_lt hn, hsucc n ▸ hlt⟩
  exact find _ (hend.symm ▸ hx)

/-- Each chunk of a rectangle that passes the checks of R426 passes those of R420. -/
theorem chunk_accepted {i : Nat} (hi : i < chunkCount c w) :
    c.acceptsMove (src + chunkOffset c w i) (dst + chunkOffset c w i) (chunkWidth c w i) h stride := by
  obtain ⟨-, hmax, hquot, -, -⟩ := chunk_bounds_accepted hv hacc
  have hin := chunk_le_width hv hacc hi
  obtain ⟨h0, h256, hst, -, hrow, hsrc, hdst, -, hov, hmin⟩ := hacc
  refine ⟨h0, h256, hst, hrow.imp_right fun hle => by omega, by omega, by omega, hmin.trans (hquot i), hmax i, ?_⟩
  exact (overlapsByOne_shift _).not.mpr hov

end Chunks

/-! ## The checks of `BLIT_SPLIT` -/

section Checks

variable {s : State} {src dst w h stride : Nat} (hv : s.cfg.valid = true)
include hv

theorem State.opBlitSplit_empty (hempty : w = 0 ∨ h = 0) : s.opBlitSplit src dst w h stride = .ok () s := by
  simp [State.opBlitSplit, hv, hempty]

/-- The check of R426 that fails first decides. -/
theorem State.opBlitSplit_refused {e : Err} (hw : 0 < w) (hh : 0 < h)
    (he : if 256 < h ∨ 65535 < stride ∨ 65535 < w ∨ (1 < h ∧ stride < w) ∨ 131072 < src + (h - 1) * stride + w ∨
        131072 < dst + (h - 1) * stride + w then e = .range
      else if w < s.cfg.bmMinWidth then e = .blitNarrow
      else (overlapsByOne src dst h stride ∧ e = .blitOverlap1) ∨
        (¬ overlapsByOne src dst h stride ∧ w / chunkCount s.cfg w < s.cfg.bmMinWidth ∧ e = .blitNarrow)) :
    s.opBlitSplit src dst w h stride = s.failRun e := by
  have hsome : ¬(w = 0 ∨ h = 0) := by omega
  have hov := overlap1_iff_overlapsByOne src dst h stride
  simp only [State.opBlitSplit, hv, Bool.not_true, Bool.false_eq_true, if_false, hsome, blitOutOfRange,
    decide_eq_true_eq]
  split at he
  case isTrue hrange => rw [if_pos hrange, he]
  case isFalse hrange =>
    rw [if_neg hrange]
    split at he
    case isTrue hnarrow => rw [if_pos hnarrow, he]
    case isFalse hnarrow =>
      rw [if_neg hnarrow]
      rcases he with ⟨hoverlap, rfl⟩ | ⟨hapart, hchunk, rfl⟩
      · rw [if_pos (hov.mpr hoverlap)]
      · rw [if_neg (hov.not.mpr hapart), if_pos hchunk]

theorem State.opBlitSplit_accepted (hacc : s.cfg.acceptsSplit src dst w h stride) :
    s.opBlitSplit src dst w h stride = State.blitChunks src dst w h stride (chunkOrder s.cfg src dst w) s := by
  obtain ⟨hmin, -, -, -⟩ := Cfg.valid_moveLimits hv
  obtain ⟨h0, h256, hst, hw, hrow, hsrc, hdst, hwmin, hov, hchunk⟩ := hacc
  have hsome : ¬(w = 0 ∨ h = 0) := by omega
  have hrange : ¬(256 < h ∨ 65535 < stride ∨ 65535 < w ∨ (1 < h ∧ stride < w) ∨
      131072 < src + (h - 1) * stride + w ∨ 131072 < dst + (h - 1) * stride + w) := by omega
  have hov' := (overlap1_iff_overlapsByOne src dst h stride).not.mpr hov
  have hchunk' : ¬ w / chunkCount s.cfg w < s.cfg.bmMinWidth := Nat.not_lt.mpr hchunk
  simp only [State.opBlitSplit, hv, Bool.not_true, Bool.false_eq_true, if_false, hsome, blitOutOfRange,
    decide_eq_true_eq, hrange, Nat.not_lt.mpr hwmin, hov', hchunk']

theorem State.opBlit_accepted (hacc : s.cfg.acceptsMove src dst w h stride) :
    s.opBlit src dst w h stride = s.blitFrames src dst w h stride := by
  obtain ⟨hmin, -, hmax, -⟩ := Cfg.valid_moveLimits hv
  obtain ⟨h0, h256, hst, hrow, hsrc, hdst, hwmin, hwmax, hov⟩ := hacc
  have hsome : ¬(w = 0 ∨ h = 0) := by omega
  have hrange : ¬(256 < h ∨ 65535 < stride ∨ 65535 < w ∨ (1 < h ∧ stride < w) ∨
      131072 < src + (h - 1) * stride + w ∨ 131072 < dst + (h - 1) * stride + w) := by omega
  have hov' := (overlap1_iff_overlapsByOne src dst h stride).not.mpr hov
  simp only [State.opBlit, hv, Bool.not_true, Bool.false_eq_true, if_false, hsome, blitOutOfRange,
    decide_eq_true_eq, hrange, Nat.not_lt.mpr hwmin, Nat.not_lt.mpr hwmax, hov']

end Checks

/-! ## Past the checks only the wait can fail -/

/-- The configuration is that of `s`, and no `HOST_RESET` is on its way. -/
def State.linkFree (s t : State) : Prop := t.cfg = s.cfg ∧ t.hostResetIn = none

/-- A part of a host op that began in `s` fails with no other code than `E_TIMEOUT` (R461). -/
def Run.onlyTimesOut {α : Type} (s : State) : Run α → Prop := Run.meets s.linkFree fun e _ => e = .timeout

theorem State.linkFree.emit {s t : State} (h : s.linkFree t) (i : Instr) : (t.emit i).onlyTimesOut s := by
  obtain ⟨hcfg, hreset⟩ := h
  obtain ⟨hsend, -, -, -, -, hr⟩ := t.sendFrame_host (frameBytes t.cfg.opmap i)
  rw [State.emit_eq (by simp [hreset])]
  exact ⟨hsend.trans hcfg, by rw [hr, hreset]; rfl⟩

theorem State.linkFree.pollLoop {s t : State} (h : s.linkFree t) (n : Nat) :
    (State.pollLoop n t).onlyTimesOut s := by
  induction n generalizing t with
  | zero => rfl
  | succ n ih =>
    refine (h.emit statusFrame).andThen fun r u hu => ?_
    split
    · exact ih hu
    · exact hu

theorem State.linkFree.blitFrames {s t : State} (ht : s.linkFree t) (src dst w h stride : Nat) :
    (t.blitFrames src dst w h stride).onlyTimesOut s :=
  (ht.emit _).andThen fun _ _ hu => (hu.emit _).andThen fun _ _ hx => (hx.pollLoop _).andThen fun _ _ hy =>
    (hy.emit _).andThen fun _ _ hz => hz

theorem State.linkFree.blitChunks {s t : State} (ht : s.linkFree t) {src dst w h stride : Nat}
    (hv : s.cfg.valid = true) (hacc : s.cfg.acceptsSplit src dst w h stride) {is : List Nat}
    (his : ∀ i ∈ is, i < chunkCount s.cfg w) : (State.blitChunks src dst w h stride is t).onlyTimesOut s := by
  induction is generalizing t with
  | nil => exact ht
  | cons i is ih =>
    obtain ⟨hi, his⟩ := List.forall_mem_cons.mp his
    have hchunk := chunk_accepted hv hacc hi
    rw [← ht.1] at hchunk
    rw [State.blitChunks, State.opBlit_accepted (ht.1.symm ▸ hv) hchunk]
    exact (ht.blitFrames _ _ _ _ _).andThen fun _ _ hu => ih hu his

theorem finishCode_onlyTimesOut {s : State} {r : Run Unit} (h : r.onlyTimesOut s) :
    ∃ t, finishCode r = .next t ∧ (t.result = some (.code .ok) ∨ t.result = some (.code .timeout)) := by
  cases r with
  | ok a t => exact ⟨_, rfl, .inl rfl⟩
  | err e t =>
    obtain rfl : e = .timeout := h
    exact ⟨_, rfl, .inr rfl⟩
  | cut t => exact h.elim

/-- Settles O34: each case of the order is the check that fails first; past the checks each chunk passes its own. -/
theorem blitSplitChecksInOrder : Obligations.BlitSplitChecksInOrder := by
  intro s src dst w h stride chunks hvalid hchunks
  have hv : s.beginOp.cfg.valid = true := hvalid
  subst hchunks
  refine ⟨fun hempty => ?_, fun e hw hh he => ?_, fun hr hacc => ?_⟩
  · exact congrArg finishCode (State.opBlitSplit_empty hv hempty)
  · exact State.refusesWith_of_finishCode rfl (State.opBlitSplit_refused hv hw hh he)
  · have hstart : s.beginOp.linkFree s.beginOp := ⟨rfl, hr⟩
    have hrun := hstart.blitChunks hv hacc (is := chunkOrder s.beginOp.cfg src dst w) fun i hi => mem_chunkOrder.mp hi
    rw [← State.opBlitSplit_accepted (s := s.beginOp) hv hacc] at hrun
    exact finishCode_onlyTimesOut hrun

/-! ## What the chunks copy -/

/-- Byte `a` of a chunk of the source rectangle is to be copied to byte `b` of the destination's (R426). -/
def chunkCopy (c : Cfg) (src dst w h stride i : Nat) : Nat → Nat → Prop :=
  rectCopy (src + chunkOffset c w i) (dst + chunkOffset c w i) (chunkWidth c w i) h stride

/-- A chunk's bytes by their columns in the whole rectangle. -/
theorem chunkCopy_iff {c : Cfg} {src dst w h stride i a b : Nat} :
    chunkCopy c src dst w h stride i a b ↔ ∃ r x, r < h ∧
      (chunkOffset c w i ≤ x ∧ x < chunkOffset c w i + chunkWidth c w i) ∧
      a = src + r * stride + x ∧ b = dst + r * stride + x := by
  constructor
  · rintro ⟨r, y, hr, hy, rfl, rfl⟩
    exact ⟨r, chunkOffset c w i + y, hr, by omega, by omega, by omega⟩
  · rintro ⟨r, x, hr, hx, rfl, rfl⟩
    exact ⟨r, x - chunkOffset c w i, hr, by omega, by omega, by omega⟩

/-- What of R429 makes the chunks independent: disjoint rectangles, a shift by whole rows, or a single row. -/
def splitIndependent (src dst w h stride : Nat) : Prop :=
  (∀ r c r' c', r < h → c < w → r' < h → c' < w → src + r * stride + c ≠ dst + r' * stride + c') ∨
    (∃ k : Int, (dst : Int) - src = k * stride) ∨ h = 1

/-- In two rectangles that are whole rows apart, one byte has one column. -/
theorem column_eq_of_rowShift {p q r r' x x' w stride : Nat} {k : Int} (hw : w ≤ stride) (hx : x < w) (hx' : x' < w)
    (hk : (q : Int) - p = k * stride) (h : p + r * stride + x = q + r' * stride + x') : x = x' := by
  have hdiff : (x : Int) - x' = (k + r' - r) * stride := by
    zify at h
    linear_combination h + hk
  have hzero : (x : Int) - x' = 0 := by
    refine Int.eq_zero_of_abs_lt_dvd (m := (stride : Int)) ⟨k + r' - r, by rw [hdiff, mul_comm]⟩ ?_
    rw [abs_lt]
    omega
  omega

section Chunks

variable {c : Cfg} {src dst w h stride : Nat} (hv : c.valid = true) (hacc : c.acceptsSplit src dst w h stride)
include hv hacc

/-- A chunk writes no byte that one after it in the order reads or writes. -/
theorem chunkCopy_apart (hind : splitIndependent src dst w h stride) {i j : Nat} (hi : i < chunkCount c w)
    (hj : j < chunkCount c w) (hij : if src < dst then j < i else i < j) {a b a' b' : Nat}
    (hab : chunkCopy c src dst w h stride i a b) (hab' : chunkCopy c src dst w h stride j a' b') :
    a' ≠ b ∧ b' ≠ b := by
  obtain ⟨r, x, hr, hx, rfl, rfl⟩ := chunkCopy_iff.mp hab
  obtain ⟨r', x', hr', hx', rfl, rfl⟩ := chunkCopy_iff.mp hab'
  have hxw : x < w := hx.2.trans_le (chunk_le_width hv hacc hi)
  have hxw' : x' < w := hx'.2.trans_le (chunk_le_width hv hacc hj)
  have hcol : if src < dst then x' < x else x < x' := by
    split at hij <;> have hle := chunkOffset_add_le hv hacc hij <;> simp only [*, if_true, if_false] <;> omega
  have hne : x' ≠ x := by split at hcol <;> omega
  obtain ⟨-, -, -, -, hrow, -⟩ := hacc
  by_cases h1 : h = 1
  · obtain rfl : r = 0 := by omega
    obtain rfl : r' = 0 := by omega
    split at hcol <;> omega
  · have hw : w ≤ stride := hrow.resolve_left h1
    have hdst : dst + r' * stride + x' ≠ dst + r * stride + x := fun heq =>
      hne (column_eq_of_rowShift hw hxw' hxw (k := 0) (by simp) heq)
    refine ⟨?_, hdst⟩
    rcases hind with hdisjoint | ⟨k, hk⟩ | h1'
    · exact hdisjoint r' x' r x hr' hxw' hr hxw
    · exact fun heq => hne (column_eq_of_rowShift hw hxw' hxw hk heq)
    · exact absurd h1' h1

/-- The chunks together are the rectangle. -/
theorem exists_chunkCopy_iff (a b : Nat) :
    (∃ i ∈ chunkOrder c src dst w, chunkCopy c src dst w h stride i a b) ↔ rectCopy src dst w h stride a b := by
  constructor
  · rintro ⟨i, hi, hab⟩
    obtain ⟨r, x, hr, hx, rfl, rfl⟩ := chunkCopy_iff.mp hab
    exact ⟨r, x, hr, hx.2.trans_le (chunk_le_width hv hacc (mem_chunkOrder.mp hi)), rfl, rfl⟩
  · rintro ⟨r, x, hr, hx, rfl, rfl⟩
    obtain ⟨i, hi, hcol⟩ := exists_chunk hv hacc hx
    exact ⟨i, mem_chunkOrder.mpr hi, chunkCopy_iff.mpr ⟨r, x, hr, hcol, rfl, rfl⟩⟩

end Chunks

theorem State.HasBlitted.trans {s t u : State} (hst : s.HasBlitted t) (htu : t.HasBlitted u) : s.HasBlitted u where
  busy := htu.busy
  block := by rw [htu.block, hst.block]
  faults := htu.faults.trans hst.faults
  cfg := htu.cfg.trans hst.cfg
  noReset := htu.noReset
  registers := htu.registers.trans hst.registers
  lpf := by rw [htu.lpf, hst.cfg]

/-- The chunks of a list, moved one after the other where every wait is long enough: the last move runs and is pending,
and once it has completed the bytes of all of them are copied, if none writes what a later one reads or writes. -/
theorem State.blitChunks_moves {c : Cfg} {src dst w h stride : Nat} (hv : c.valid = true)
    (hacc : c.acceptsSplit src dst w h stride) (hpolls : c.pollsSuffice) {i : Nat} {is : List Nat}
    (his : ∀ j ∈ i :: is, j < chunkCount c w) {s : State} (hcfg : s.cfg = c) (hr : s.hostResetIn = none) :
    ∃ t, State.blitChunks src dst w h stride (i :: is) s = .ok () t ∧ s.HasBlitted t ∧
      ((i :: is).Pairwise (fun i j => ∀ a b a' b', chunkCopy c src dst w h stride i a b →
          chunkCopy c src dst w h stride j a' b' → a' ≠ b ∧ b' ≠ b) →
        Memory.copies (fun a b => ∃ j ∈ i :: is, chunkCopy c src dst w h stride j a b) s.settledMem t.settledMem) := by
  have chunk {s : State} {i : Nat} (hcfg : s.cfg = c) (hr : s.hostResetIn = none) (hi : i < chunkCount c w) :
      ∃ t, s.opBlit (src + chunkOffset s.cfg w i) (dst + chunkOffset s.cfg w i) (chunkWidth s.cfg w i) h stride =
          .ok () t ∧ s.HasBlitted t ∧ Memory.copies (chunkCopy c src dst w h stride i) s.settledMem t.settledMem := by
    subst hcfg
    obtain ⟨t, hrun, ht, -, hcopies⟩ :=
      State.opBlit_moves hv (State.waitEnds_of_pollsSuffice hpolls) hr (chunk_accepted hv hacc hi)
    exact ⟨t, hrun, ht, hcopies⟩
  induction is generalizing i s with
  | nil =>
    obtain ⟨t, hrun, ht, hcopies⟩ := chunk hcfg hr (his i List.mem_cons_self)
    refine ⟨t, by rw [State.blitChunks, hrun]; rfl, ht, fun _ => ?_⟩
    exact (Memory.copies_congr fun a b => by simp).mp hcopies
  | cons j js ih =>
    obtain ⟨hi, his'⟩ := List.forall_mem_cons.mp his
    obtain ⟨t, hrun, ht, hcopies⟩ := chunk hcfg hr hi
    obtain ⟨u, hrest, hu, hcopies'⟩ := ih his' (ht.cfg.trans hcfg) ht.noReset
    refine ⟨u, by rw [State.blitChunks, hrun, Run.andThen_ok, hrest], ht.trans hu, fun hapart => ?_⟩
    obtain ⟨hfirst, hlater⟩ := List.pairwise_cons.mp hapart
    refine (Memory.copies_congr fun a b => ?_).mp (hcopies.trans (hcopies' hlater) ?_)
    · simp
    · rintro a b a' b' hab ⟨n, hn, hab'⟩
      exact hfirst n hn a b a' b' hab hab'

/-- Settles O33: the chunks in their order, which R429's cases make independent. -/
theorem blitSplitMovesTheRectangle : Obligations.BlitSplitMovesTheRectangle := by
  intro s src dst w h stride hv hpolls hr hacc
  obtain ⟨i, is, horder⟩ := chunkOrder_eq_cons hv hacc
  have his : ∀ j ∈ i :: is, j < chunkCount s.cfg w := fun j hj => mem_chunkOrder.mp (horder ▸ hj)
  obtain ⟨t, hrun, ht, hcopies⟩ := State.blitChunks_moves (s := s.beginOp) hv hacc hpolls his rfl hr
  have hexec : exec (.blitSplit src dst w h stride) s = finishCode (.ok () t) := by
    refine congrArg finishCode ((State.opBlitSplit_accepted (s := s.beginOp) hv hacc).trans ?_)
    exact horder ▸ hrun
  refine ⟨_, hexec, rfl, ht.busy, ht.block, ht.faults, ht.cfg, ht.registers, ht.lpf, fun hind => ?_⟩
  rw [← horder] at hcopies
  refine Memory.movedRect_iff_copies.mpr
    ((Memory.copies_congr (exists_chunkCopy_iff hv hacc)).mp (hcopies ?_))
  exact (chunkOrder_pairwise s.cfg src dst w).imp_of_mem fun {i j} hi hj hij _ _ _ _ =>
    chunkCopy_apart hv hacc hind (mem_chunkOrder.mp hi) (mem_chunkOrder.mp hj) hij

end Sys2Proof.Machine

/-! SUPPORT. Host ops that wait in vain (R427, R428, R464): `WAIT_IDLE`, the ops that drain, and the block moves. -/

namespace Sys2Proof.Machine

/-! ## A wait in vain -/

/-- `t` is `s` after `n` polls all of which have seen `BUSY = 1` (R427). -/
structure State.HasPolled (s t : State) (n : Nat) : Prop where
  cfg : t.cfg = s.cfg
  chip : t.chip = s.chip ∨ t.chip = { s.chip with select := false }
  block : t.block = s.block
  faults : t.faults = s.faults
  sent : t.sent = s.sent ++ List.replicate n (statusBytes s.cfg.opmap)

/-- A recorded error, in the words of R463. -/
theorem State.block_fail {t : State} {b : Block} (h : t.block = b) (e : Err) : (t.fail e).block = b.failed e := by
  rw [State.fail_block, h]
  rfl

/-- A host op that ends after a wait in vain with the code of `E_TIMEOUT`, and value 0 where it returns one (R461). -/
theorem State.HasPolled.timesOut {s t : State} {n : Nat} (h : s.beginOp.HasPolled t n) (hb : s.chip.busy = true)
    {i : Instr} {q : HostResult} (hq : q = .code .timeout ∨ q = .value .timeout 0)
    (hexec : exec i s = .next { t.fail .timeout with result := some q }) : s.timesOut i n := by
  have hregs : t.chip.busy = true ∧ t.chip.mem = s.chip.mem ∧ t.chip.registers = s.chip.registers := by
    rcases h.chip with hc | hc <;> rw [hc] <;> exact ⟨hb, rfl, rfl⟩
  obtain ⟨hbusy, hmem, hregs⟩ := hregs
  exact ⟨_, hexec, hq.imp (congrArg some) (congrArg some), h.sent, hbusy, hmem, ⟨hregs, h.faults, h.cfg⟩,
    State.block_fail h.block .timeout⟩

section Wait

variable {s : State} {n : Nat} (hv : s.cfg.valid = true) (hb : s.chip.busy = true)
  (hlimit : s.cfg.busyPollLimit = some n) (hn : n ≤ s.pollsLeft) (hr : s.hostResetIn = none)
include hv hb hlimit hn hr

/-- The bounded wait, while the engine outlasts it. -/
theorem State.pollIdle_timeout : ∃ t, s.pollIdle = .err .timeout (t.fail .timeout) ∧ s.HasPolled t n := by
  obtain ⟨t, hrun, hcfg, hchip, hblock, hfaults, -, -, hsent⟩ :=
    State.pollLoop_timeout (Cfg.valid_injective hv) hr hb hn
  have hpoll : s.pollIdle = State.pollLoop n s := by simp [State.pollIdle, State.pollLimit, hlimit]
  exact ⟨t, hpoll.trans hrun, hcfg, hchip, hblock, hfaults, hsent⟩

theorem State.waitIdle_timesOut : s.timesOut .waitIdle n := by
  obtain ⟨t, hrun, ht⟩ := State.pollIdle_timeout (s := s.beginOp) hv hb hlimit hn hr
  exact ht.timesOut hb (.inl rfl) (congrArg finishCode ((State.opWaitIdle_accepted (s := s.beginOp) hv).trans hrun))

variable (hp : s.block.movePending = true)
include hp

/-- As `State.pollIdle_timeout`, for the drain of a pending move (R428). -/
theorem State.drain_hasPolled :
    ∃ t, s.beginOp.drain = .err .timeout (t.fail .timeout) ∧ s.beginOp.HasPolled t n := by
  have hdrain : s.beginOp.drain = s.beginOp.pollIdle := if_pos hp
  rw [hdrain]
  exact State.pollIdle_timeout (s := s.beginOp) hv hb hlimit hn hr

/-- A host op that begins with a drain and returns a code. -/
theorem State.timesOut_of_drain {i : Instr} {k : Unit → State → Run Unit}
    (hexec : exec i s = finishCode (s.beginOp.drain.andThen k)) : s.timesOut i n := by
  obtain ⟨t, hrun, ht⟩ := State.drain_hasPolled hv hb hlimit hn hr hp
  rw [hrun] at hexec
  exact ht.timesOut hb (.inl rfl) hexec

/-- A host op that begins with a drain and returns a value. -/
theorem State.timesOut_of_drain_value {i : Instr} {k : Unit → State → Run Nat}
    (hexec : exec i s = finishValue (s.beginOp.drain.andThen k)) : s.timesOut i n := by
  obtain ⟨t, hrun, ht⟩ := State.drain_hasPolled hv hb hlimit hn hr hp
  rw [hrun] at hexec
  exact ht.timesOut hb (.inr rfl) hexec

end Wait

/-! ## The host ops that begin with a drain -/

theorem Run.andThen_assoc {α β γ : Type} (r : Run α) (k : α → State → Run β) (l : β → State → Run γ) :
    (r.andThen k).andThen l = r.andThen fun a t => (k a t).andThen l := by
  cases r <;> rfl

theorem State.opInit_accepted {s : State} (hv : s.cfg.valid = true) :
    s.opInit = s.drain.andThen fun _ t => (State.emitAll (initBefore t.cfg) t).andThen fun _ u =>
      State.emitAll (initAfter u.cfg) (u.setBurstOn true) := by
  simp [State.opInit, hv]

/-- A host op that stores and passes its checks is a drain and one frame (R428). -/
theorem exec_of_storesAt {s : State} (hv : s.cfg.valid = true) {i : Instr} {a : Nat} (h : s.cfg.storesAt i a) :
    ∃ frame, exec i s = finishCode (s.beginOp.drainAndSend frame) := by
  have hv' : s.beginOp.cfg.valid = true := hv
  rcases h with ⟨d, rfl, ha, hd⟩ | ⟨w, v, rfl, -, hw, hval⟩ | ⟨line, kind, value, rfl, -, hl, hentry⟩ |
    ⟨k, offset, count, v, rfl, -, hk, hc, hfit, hval⟩ | ⟨x, y, color, rfl, -, hx, hy, hc⟩
  · exact ⟨_, congrArg finishCode (State.opWriteByte_accepted hv' ha hd)⟩
  · exact ⟨_, congrArg finishCode (State.opWriteWord_accepted hv' hw hval)⟩
  · have hsome : indexEntryBytes s.cfg kind value ≠ none := by
      rw [ne_eq, indexEntryBytes_eq_none_iff]
      omega
    obtain ⟨e, he⟩ := Option.ne_none_iff_exists'.mp hsome
    exact ⟨_, congrArg finishCode (State.opWriteIndexEntry_accepted hv' hl he)⟩
  · exact ⟨_, congrArg finishCode (State.opFillProtoline_accepted hv' hk hval hfit hc)⟩
  · exact ⟨_, congrArg finishCode (State.opWritePixel_accepted hv' hx hy hc)⟩

/-- A host op that reads and passes its checks is a drain and one frame (R428). -/
theorem exec_of_readsAt {s : State} (hv : s.cfg.valid = true) {i : Instr} {a : Nat} (h : s.cfg.readsAt i a) :
    exec i s = finishValue (s.beginOp.drainAndRead a) := by
  have hv' : s.beginOp.cfg.valid = true := hv
  rcases h with ⟨rfl, ha⟩ | ⟨x, y, rfl, rfl, hx, hy⟩
  · exact congrArg finishValue (State.opReadByte_accepted hv' ha)
  · exact congrArg finishValue (State.opReadPixel_accepted hv' hx hy)

/-! ## The block moves -/

/-- `t` is `s` after the parameter frames of a block move and `n` polls that have all seen the old move run (R420). -/
structure State.HasPolledMove (s t : State) (n : Nat) : Prop where
  cfg : t.cfg = s.cfg
  chip : t.chip = { s.chip with select := false, bmc1 := t.chip.bmc1, bmc2 := t.chip.bmc2 }
  block : t.block = s.block
  faults : t.faults = s.faults
  sent : t.sent.map List.head? = s.sent.map List.head? ++
    some s.cfg.opmap.bmc1 :: some s.cfg.opmap.bmc2 :: List.replicate n (some s.cfg.opmap.bmstatus)

theorem State.HasPolledMove.moveTimesOut {s t : State} {n : Nat} (h : s.beginOp.HasPolledMove t n)
    (hb : s.chip.busy = true) : s.moveTimesOut { t.fail .timeout with result := some (.code .timeout) } n := by
  exact ⟨rfl, h.sent, (congrArg Chip.busy h.chip).trans hb, (congrArg Chip.active h.chip :),
    (congrArg Chip.mem h.chip :), (congrArg Chip.otherRegisters h.chip :), h.faults, h.cfg,
    State.block_fail h.block .timeout⟩

/-- The shadow fields that the frames of a `BLIT` write (R420, R423). -/
def blitBmc1 (c : Cfg) (src dst w h stride : Nat) : Bmc1 where
  srcW := BitVec.ofNat 16 (blitAddress (blitDescends src dst) src w h stride / 2)
  dstW := BitVec.ofNat 16 (blitAddress (blitDescends src dst) dst w h stride / 2)
  dir := blitDescends src dst
  dstOdd := decide (blitAddress (blitDescends src dst) dst w h stride % 2 = 1)
  srcOdd := decide (blitAddress (blitDescends src dst) src w h stride % 2 = 1)
  lpf := decide (c.lpfEnable = 1)

section Move

variable {s : State} {n src dst w h stride : Nat} (hv : s.cfg.valid = true) (hb : s.chip.busy = true)
  (hlimit : s.cfg.busyPollLimit = some n) (hn : n ≤ s.pollsLeft) (hr : s.hostResetIn = none)
  (hdelay : n + 2 ≤ s.delay)
include hv hb hlimit hn hr hdelay

/-- A `BLIT` past its checks whose wait is in vain (`State.opBlit_timeout`). -/
theorem State.opBlit_hasPolledMove (hacc : s.cfg.acceptsMove src dst w h stride) :
    ∃ t, s.opBlit src dst w h stride = .err .timeout (t.fail .timeout) ∧ s.HasPolledMove t n ∧
      t.chip.bmc1 = some (blitBmc1 s.cfg src dst w h stride) ∧
      t.chip.bmc2 = some ⟨BitVec.ofNat 16 stride, BitVec.ofNat 8 w, BitVec.ofNat 8 (h - 1)⟩ := by
  obtain ⟨h0, h256, hst, hrow, hsrc, hdst, hmin, hmax, hov⟩ := hacc
  have hov' : overlap1 src dst h stride = false := by
    rwa [← overlap1_iff_overlapsByOne, Bool.not_eq_true] at hov
  obtain ⟨t, hrun, hcfg, hchip, hbmc1, hbmc2, hblock, hfaults, -, hsent⟩ :=
    s.opBlit_timeout src dst w h stride n hv hb hlimit hn hdelay hr h0 h256 hst hrow hsrc hdst hmin hmax hov'
  refine ⟨t, hrun, ⟨hcfg, hchip, hblock, hfaults, ?_⟩, hbmc1, hbmc2⟩
  rw [hsent]
  simp [blitFrame1, blitFrame2, frameBytes, encode, statusBytes]

/-- A `BLIT_SPLIT` past its checks waits in vain for its first chunk (R426). -/
theorem State.opBlitSplit_hasPolledMove (hacc : s.cfg.acceptsSplit src dst w h stride) :
    ∃ t, s.opBlitSplit src dst w h stride = .err .timeout (t.fail .timeout) ∧ s.HasPolledMove t n := by
  obtain ⟨i, is, horder⟩ := chunkOrder_eq_cons hv hacc
  have hi : i < chunkCount s.cfg w := mem_chunkOrder.mp (horder ▸ List.mem_cons_self)
  obtain ⟨t, hrun, ht, -⟩ := State.opBlit_hasPolledMove hv hb hlimit hn hr hdelay (chunk_accepted hv hacc hi)
  exact ⟨t, by rw [State.opBlitSplit_accepted hv hacc, horder, State.blitChunks, hrun]; rfl, ht⟩

end Move

/-- The address `BLIT` gives the engine, as the sum of R423. -/
theorem blitAddress_descends (src dst a w h stride : Nat) :
    blitAddress (blitDescends src dst) a w h stride =
      a + if src < dst then (h - 1) * stride + (w - 1) else 0 := by
  unfold blitAddress blitDescends rectSpan
  by_cases hlt : src < dst <;> simp [hlt]

/-- Settles O30: the wait of `WAIT_IDLE`, of the drain, and of the first move of a block move. -/
theorem timeoutsLeaveTheMoveRunning : Obligations.TimeoutsLeaveTheMoveRunning := by
  intro s n hv hb hlimit hn hr
  have hv' : s.beginOp.cfg.valid = true := hv
  refine ⟨State.waitIdle_timesOut hv hb hlimit hn hr, fun hp => ?_, fun hdelay src dst w h stride => ⟨?_, ?_⟩⟩
  · have drained {i : Instr} {k : Unit → State → Run Unit}
        (hexec : exec i s = finishCode (s.beginOp.drain.andThen k)) : s.timesOut i n :=
      State.timesOut_of_drain hv hb hlimit hn hr hp hexec
    refine ⟨drained (congrArg finishCode (State.opInit_accepted hv')), fun enable henable => ?_, fun i a h => ?_⟩
    · exact drained (congrArg finishCode ((State.opSetColorBurst_accepted hv' henable).trans (Run.andThen_assoc ..)))
    · rcases h with hstore | hread
      · obtain ⟨frame, hexec⟩ := exec_of_storesAt hv hstore
        exact drained hexec
      · exact State.timesOut_of_drain_value hv hb hlimit hn hr hp (exec_of_readsAt hv hread)
  · rintro hacc sa da hsa hda
    obtain ⟨t, hrun, ht, hbmc1, hbmc2⟩ :=
      State.opBlit_hasPolledMove (s := s.beginOp) hv hb hlimit hn hr hdelay hacc
    rw [← blitAddress_descends] at hsa hda
    subst hsa hda
    exact ⟨_, congrArg finishCode hrun, ht.moveTimesOut hb, hbmc1, hbmc2⟩
  · intro hacc
    obtain ⟨t, hrun, ht⟩ := State.opBlitSplit_hasPolledMove (s := s.beginOp) hv hb hlimit hn hr hdelay hacc
    exact ⟨_, congrArg finishCode hrun, ht.moveTimesOut hb⟩

end Sys2Proof.Machine

/-! SUPPORT. What every host op keeps, its errors and its drain in view: one premise for each part of a host op, and
then every host op keeps it (R133, R427, R428, R463). -/

namespace Sys2Proof.Machine

/-! ## The frames of the host ops pass their checks -/

theorem writeByteFrame_passes (c : Cfg) {a : Nat} (d : Nat) (ha : a < 131072) :
    framePasses c (writeByteFrame a d) := by
  refine ⟨List.cons_ne_nil _ _, ?_⟩
  rw [toNat_ofNat_address ha]
  exact ha

theorem writeWordFrame_passes (c : Cfg) {w : Nat} (v : Nat) (hw : w < 65536) :
    framePasses c (writeWordFrame w v) := by
  refine ⟨List.cons_ne_nil _ _, ?_⟩
  rw [toNat_ofNat_address (by omega)]
  simp only [bytes16, List.length_cons, List.length_nil]
  omega

/-- The burst window stands in protoline 0 (R353). -/
theorem burstFrame_passes {c : Cfg} (hv : c.valid = true) (on : Bool) : framePasses c (burstFrame c on) := by
  obtain ⟨-, -, hwindow, hend, hactive, hline⟩ := Cfg.valid_pulses hv
  have hn := three_le_numProtolines hv
  refine fillsProtoline.passes hv ⟨0, c.burstStart, c.burstLen, _, by omega, ?_, ?_, rfl⟩ <;>
    rw [Cfg.burstLen] <;> omega

/-- An index entry has three bytes (R291, R305, R306). -/
theorem length_of_indexEntryBytes {c : Cfg} {kind value : Nat} {e : List Byte}
    (he : indexEntryBytes c kind value = some e) : e.length = 3 := by
  unfold indexEntryBytes at he
  split at he
  · split at he <;> cases he
    rfl
  · split at he
    · split at he <;> cases he
      rfl
    · cases he

theorem acceptsMove_of_checks {c : Cfg} {src dst w h stride : Nat} (hempty : ¬(w = 0 ∨ h = 0))
    (hrange : ¬ blitOutOfRange src dst w h stride = true) (hmin : ¬ w < c.bmMinWidth) (hmax : ¬ c.bmMaxWidth < w)
    (hov : ¬ overlap1 src dst h stride = true) : c.acceptsMove src dst w h stride := by
  rw [blitOutOfRange, decide_eq_true_eq] at hrange
  exact ⟨by omega, by omega, by omega, by omega, by omega, by omega, by omega, by omega,
    (overlap1_iff_overlapsByOne _ _ _ _).not.mp hov⟩

/-! ## The rule -/

/-- The parts of a host op with the configuration `c` keep `Q` where they go on, and `D` from a drain on; where one
fails, `E` holds of its error and the state. No part is cut short (R427, R428, R463). -/
structure HostRule (c : Cfg) (Q D : State → Prop) (E : Err → State → Prop) : Prop where
  cfg : ∀ {t}, Q t → t.cfg = c
  ofDrained : ∀ {t}, D t → Q t
  fail : ∀ {t} e, Q t → E e (t.fail e)
  clip : ∀ {t}, Q t → Q t.countClip
  burst : ∀ {t} v, D t → D (t.setBurstOn v)
  idle : ∀ {t}, Q t → t.block.movePending = false → D t
  wait : ∀ {t}, c.valid = true → Q t → t.pollIdle.meets D E
  send : ∀ {t i}, c.valid = true → D t → framePasses c i → (t.emit i).meets D E
  read : ∀ {t a}, c.valid = true → D t → a < 131072 → (t.emit (readByteFrame a)).meets D E
  move : ∀ {t src dst w h stride}, c.valid = true → Q t → c.acceptsMove src dst w h stride →
    (t.blitFrames src dst w h stride).meets Q E

namespace HostRule

variable {c : Cfg} {Q D : State → Prop} {E : Err → State → Prop} (hR : HostRule c Q D E) {t : State}
include hR

theorem drain (hv : c.valid = true) (ht : Q t) : t.drain.meets D E := by
  unfold State.drain
  split
  · exact hR.wait hv ht
  · next hp => exact hR.idle ht (Bool.eq_false_iff.mpr hp)

theorem drainAndSend {i : Instr} (hv : c.valid = true) (ht : Q t) (hi : framePasses c i) :
    (t.drainAndSend i).meets D E :=
  (hR.drain hv ht).andThen fun _ _ hu => (hR.send hv hu hi).andThen fun _ _ hx => hx

theorem drainAndRead {a : Nat} (hv : c.valid = true) (ht : Q t) (ha : a < 131072) :
    (t.drainAndRead a).meets D E :=
  (hR.drain hv ht).andThen fun _ _ hu => (hR.read hv hu ha).andThen fun _ _ hx => hx

theorem emitAll {is : List Instr} (hv : c.valid = true) (ht : D t) (his : ∀ i ∈ is, framePasses c i) :
    (State.emitAll is t).meets D E := by
  induction is generalizing t with
  | nil => exact ht
  | cons i is ih =>
    obtain ⟨hi, his⟩ := List.forall_mem_cons.mp his
    exact (hR.send hv ht hi).andThen fun _ _ hu => ih hu his

theorem opInit (ht : Q t) : t.opInit.meets D E := by
  obtain rfl := hR.cfg ht
  refine .config (hR.fail _ ht) fun hv => (hR.drain hv ht).andThen fun _ u hu => ?_
  have hucfg : u.cfg = t.cfg := hR.cfg (hR.ofDrained hu)
  have hbefore : ∀ i ∈ initBefore u.cfg, framePasses t.cfg i := by
    rw [hucfg, initBefore_eq, List.forall_mem_append]
    exact ⟨initStart_passes hv, initFill_passes hv⟩
  refine (hR.emitAll hv hu hbefore).andThen fun _ x hx => ?_
  have hxcfg : x.cfg = t.cfg := hR.cfg (hR.ofDrained hx)
  exact hR.emitAll hv (hR.burst true hx) (hxcfg.symm ▸ initAfter_passes hv)

theorem opWriteIndexEntry (ht : Q t) (line kind value : Nat) : (t.opWriteIndexEntry line kind value).meets Q E := by
  obtain rfl := hR.cfg ht
  refine .config (hR.fail _ ht) fun hv => .check (hR.fail _ ht) fun hline => ?_
  split
  · exact hR.fail _ ht
  · next he =>
    exact (hR.drainAndSend hv ht
      (entryFrame_passes hv (Nat.not_le.mp hline) (length_of_indexEntryBytes he))).mono fun _ => hR.ofDrained

theorem opFillProtoline (ht : Q t) (n offset count value : Nat) :
    (t.opFillProtoline n offset count value).meets Q E := by
  obtain rfl := hR.cfg ht
  refine .config (hR.fail _ ht) fun hv => .check (hR.fail _ ht) fun hrange => ?_
  split
  · exact ht
  · have hfills : fillsProtoline t.cfg (fillFrame (t.cfg.protoByte n + 2 * offset) count value) :=
      ⟨n, offset, count, value, by omega, by omega, by omega, rfl⟩
    exact (hR.drainAndSend hv ht (hfills.passes hv)).mono fun _ => hR.ofDrained

theorem opSetColorBurst (ht : Q t) (enable : Nat) : (t.opSetColorBurst enable).meets Q E := by
  obtain rfl := hR.cfg ht
  exact .config (hR.fail _ ht) fun hv => .check (hR.fail _ ht) fun _ =>
    (hR.drainAndSend hv ht (burstFrame_passes hv _)).andThen fun _ _ hu => hR.ofDrained (hR.burst _ hu)

theorem opWritePixel (ht : Q t) (x y color : Nat) : (t.opWritePixel x y color).meets Q E := by
  obtain rfl := hR.cfg ht
  refine .config (hR.fail _ ht) fun hv => .check (hR.fail _ ht) fun _ => ?_
  split
  · exact hR.clip ht
  · obtain ⟨-, -, hfit⟩ := Cfg.pix_fits hv (x := x) (y := y) (by omega) (by omega)
    exact (hR.drainAndSend hv ht (writeByteFrame_passes _ _ hfit)).mono fun _ => hR.ofDrained

theorem opReadPixel (ht : Q t) (x y : Nat) : (t.opReadPixel x y).meets Q E := by
  obtain rfl := hR.cfg ht
  refine .config (hR.fail _ ht) fun hv => .check (hR.fail _ ht) fun hin => ?_
  obtain ⟨-, -, hfit⟩ := Cfg.pix_fits hv (x := x) (y := y) (by omega) (by omega)
  exact (hR.drainAndRead hv ht hfit).mono fun _ => hR.ofDrained

theorem opWriteByte (ht : Q t) (a d : Nat) : (t.opWriteByte a d).meets Q E := by
  obtain rfl := hR.cfg ht
  exact .config (hR.fail _ ht) fun hv => .check (hR.fail _ ht) fun _ =>
    (hR.drainAndSend hv ht (writeByteFrame_passes _ _ (by omega))).mono fun _ => hR.ofDrained

theorem opWriteWord (ht : Q t) (w v : Nat) : (t.opWriteWord w v).meets Q E := by
  obtain rfl := hR.cfg ht
  exact .config (hR.fail _ ht) fun hv => .check (hR.fail _ ht) fun _ =>
    (hR.drainAndSend hv ht (writeWordFrame_passes _ _ (by omega))).mono fun _ => hR.ofDrained

theorem opReadByte (ht : Q t) (a : Nat) : (t.opReadByte a).meets Q E := by
  obtain rfl := hR.cfg ht
  exact .config (hR.fail _ ht) fun hv => .check (hR.fail _ ht) fun ha =>
    (hR.drainAndRead hv ht (Nat.not_le.mp ha)).mono fun _ => hR.ofDrained

theorem opWaitIdle (ht : Q t) : t.opWaitIdle.meets Q E := by
  obtain rfl := hR.cfg ht
  exact .config (hR.fail _ ht) fun hv => (hR.wait hv ht).mono fun _ => hR.ofDrained

theorem opBlit (ht : Q t) (src dst w h stride : Nat) : (t.opBlit src dst w h stride).meets Q E := by
  obtain rfl := hR.cfg ht
  refine .config (hR.fail _ ht) fun hv => ?_
  split
  · exact ht
  · next hempty =>
    exact .check (hR.fail _ ht) fun hrange => .check (hR.fail _ ht) fun hmin => .check (hR.fail _ ht) fun hmax =>
      .check (hR.fail _ ht) fun hov => hR.move hv ht (acceptsMove_of_checks hempty hrange hmin hmax hov)

theorem blitChunks (ht : Q t) (src dst w h stride : Nat) (is : List Nat) :
    (State.blitChunks src dst w h stride is t).meets Q E := by
  induction is generalizing t with
  | nil => exact ht
  | cons i is ih => exact (hR.opBlit ht _ _ _ _ _).andThen fun _ _ hu => ih hu

theorem opBlitSplit (ht : Q t) (src dst w h stride : Nat) : (t.opBlitSplit src dst w h stride).meets Q E := by
  refine .config (hR.fail _ ht) fun _ => ?_
  split
  · exact ht
  · exact .check (hR.fail _ ht) fun _ => .check (hR.fail _ ht) fun _ => .check (hR.fail _ ht) fun _ =>
      .check (hR.fail _ ht) fun _ => hR.blitChunks ht _ _ _ _ _ _

/-- Every host op whose parts keep the rule keeps it. -/
theorem hostRun (ht : Q t) {i : Instr} {r : Run Nat} (hrun : t.hostRun i = some r) : r.meets Q E := by
  have code : ∀ {q : Run Unit}, q.meets Q E → (q.andThen fun _ u => Run.ok 0 u).meets Q E :=
    fun hq => hq.andThen fun _ _ hu => hu
  cases i with
  | init => cases hrun; exact code ((hR.opInit ht).mono fun _ => hR.ofDrained)
  | protolineAddress | pictureLineAddress | pixelAddress =>
    cases hrun; exact .config (hR.fail _ ht) fun _ => .check (hR.fail _ ht) fun _ => ht
  | writeIndexEntry => cases hrun; exact code (hR.opWriteIndexEntry ht _ _ _)
  | fillProtoline => cases hrun; exact code (hR.opFillProtoline ht _ _ _ _)
  | setColorBurst => cases hrun; exact code (hR.opSetColorBurst ht _)
  | writePixel => cases hrun; exact code (hR.opWritePixel ht _ _ _)
  | readPixel => cases hrun; exact hR.opReadPixel ht _ _
  | writeByte => cases hrun; exact code (hR.opWriteByte ht _ _)
  | writeWord => cases hrun; exact code (hR.opWriteWord ht _ _)
  | readByte => cases hrun; exact hR.opReadByte ht _
  | blit => cases hrun; exact code (hR.opBlit ht _ _ _ _ _)
  | blitSplit => cases hrun; exact code (hR.opBlitSplit ht _ _ _ _ _)
  | waitIdle => cases hrun; exact code (hR.opWaitIdle ht)
  | readStatus => cases hrun; exact ht
  | _ => cases hrun

end HostRule

end Sys2Proof.Machine

/-! SUPPORT. Why an initialised block raises no fault (R466, R504): every frame that a host op sends passes the chip's
checks, and no frame takes the settings or a written byte away. -/

namespace Sys2Proof.Machine

/-! ## What no frame takes away -/

/-- The chip is set for memory frames (R194, R195), and no byte of its SRAM is `⊥` (R96). -/
structure Chip.Ready (k : Chip) (c : Cfg) : Prop where
  mode : k.mode = some 1
  multiic : k.multiic.map BitVec.toNat = some c.multiicOff
  full : Memory.full k.mem

/-- `State.initialised`, the chip's part of it in one. -/
theorem State.initialised_iff (s : State) : s.initialised ↔
    s.cfg.valid = true ∧ s.chip.Ready s.cfg ∧ (s.chip.busy = true → s.block.movePending = true) :=
  ⟨fun ⟨hv, ⟨hmode, hmulti⟩, hfull, hknown⟩ => ⟨hv, ⟨hmode, hmulti, hfull⟩, hknown⟩,
    fun ⟨hv, ⟨hmode, hmulti, hfull⟩, hknown⟩ => ⟨hv, ⟨hmode, hmulti⟩, hfull, hknown⟩⟩

theorem Chip.Ready.memoryModeSet {s : State} (h : s.chip.Ready s.cfg) : s.memoryModeSet := ⟨h.mode, h.multiic⟩

theorem Memory.full_write {m : Memory} (hm : Memory.full m) (a : Nat) (bs : List Byte) :
    Memory.full (Memory.write m a bs) := by
  intro x hx
  rw [Memory.read_write]
  split
  · rw [List.getElem?_eq_getElem (by omega)]
    rfl
  · exact hm x hx

/-- A move copies bytes that are all written, also where an address wraps (R413). -/
theorem ActiveMove.full_run (v : ActiveMove) {m : Memory} (hm : Memory.full m) : Memory.full (v.run m) := by
  unfold ActiveMove.run
  induction v.offsets generalizing m with
  | nil => exact hm
  | cons o os ih =>
    refine ih fun x hx => ?_
    rw [ActiveMove.copy, Memory.read_put]
    split
    · exact hm _ (v.at_lt _ _)
    · exact hm x hx

theorem State.complete_ready {s : State} (h : s.chip.Ready s.cfg) : s.complete.chip.Ready s.cfg := by
  refine { h with full := ?_ }
  unfold State.complete
  cases ha : s.chip.active with
  | none => simpa [ha] using h.full
  | some v => simpa [ha] using v.full_run h.full

theorem State.transfer_ready {s : State} (h : s.chip.Ready s.cfg) (bytes : List Byte) :
    (s.transfer bytes).chip.Ready s.cfg := by
  unfold State.transfer
  rcases s.engineGap_cases (isStatusFrame s.cfg.opmap bytes) with ⟨-, hgap⟩ | ⟨-, -, hgap⟩ | ⟨-, -, -, hgap⟩ <;>
    rw [hgap]
  · exact { h with }
  · exact { State.complete_ready h with }
  · exact { h with }

theorem State.registerFrame_ready {s : State} (h : s.chip.Ready s.cfg) (n : Nat) (c : Cmd) {f : Option ChipFault}
    {w : Chip} (hw : f = none → w.Ready s.cfg) : (s.registerFrame n c f w).chip.Ready s.cfg := by
  cases f with
  | none => exact hw rfl
  | some f => exact h

theorem State.portWrite_ready {s : State} (h : s.chip.Ready s.cfg) (a : BitVec 24) (data : List Byte) :
    (s.portWrite a data).chip.Ready s.cfg := by
  unfold State.portWrite
  split
  · exact h
  · split
    · exact h
    · exact { h with full := Memory.full_write h.full _ _ }

/-- No command unsets what the memory frames need: a refused `MULTIIC` or `WRSR` writes nothing (R200, R201). -/
theorem State.portInstr_ready {s : State} (h : s.chip.Ready s.cfg) (i : Instr) :
    (s.portInstr i).chip.Ready s.cfg := by
  cases i with
  | multiic d =>
    refine State.registerFrame_ready h _ _ fun hnone => { h with multiic := ?_ }
    simpa using hnone
  | wrsr d => exact State.registerFrame_ready h _ _ fun _ => { h with mode := rfl }
  | write a data => exact State.portWrite_ready h a data
  | read a filler =>
    have hchip : (s.portInstr (.read a filler)).chip = s.chip := s.portRead_chip a filler
    exact hchip ▸ h
  | bmstart =>
    simp only [State.portInstr, State.portBmstart]
    split
    · exact h
    · exact { h with }
  | picstart | picend | linelen | vdctrl1 | indexstart | vdctrl2 | program | bmc1 | bmc2 =>
    exact State.registerFrame_ready h _ _ fun _ => { h with }
  | _ => exact h

theorem State.sendFrame_ready {s : State} (h : s.chip.Ready s.cfg) (bytes : List Byte) :
    (s.sendFrame bytes).chip.Ready (s.sendFrame bytes).cfg := by
  obtain ⟨hcfg, -⟩ := s.sendFrame_host bytes
  have hport : ((s.transfer bytes).portFrame bytes).chip.Ready s.cfg := by
    have ht := State.transfer_ready h bytes
    rw [← (s.transfer_host bytes).1] at ht ⊢
    unfold State.portFrame
    split
    · exact State.portInstr_ready ht _
    all_goals exact ht
  exact hcfg.symm ▸ hport

/-! ## The parameters of a `BLIT` pass the checks of `BMSTART` -/

/-- A byte address is its word address and its parity (R130). -/
theorem word_and_parity {a : Nat} (ha : a < 131072) :
    2 * (BitVec.ofNat 16 (a / 2)).toNat + (decide (a % 2 = 1)).toNat = a := by
  have hparity : (decide (a % 2 = 1)).toNat = a % 2 := by
    rcases Nat.mod_two_eq_zero_or_one a with h | h <;> rw [h] <;> rfl
  rw [hparity, BitVec.toNat_ofNat, Nat.mod_eq_of_lt (by omega)]
  omega

/-- The rectangle of a `BLIT` past its checks lies inside the SRAM, from either end (R213, R423). -/
theorem moveOutside_of_acceptsMove {c : Cfg} {src dst w h stride : Nat}
    (hacc : c.acceptsMove src dst w h stride) (hw : 0 < w) :
    moveOutside (blitDescends src dst) (blitAddress (blitDescends src dst) src w h stride)
      (blitAddress (blitDescends src dst) dst w h stride) (rectSpan w h stride) = false := by
  obtain ⟨-, -, -, -, hsrc, hdst, -⟩ := hacc
  unfold moveOutside blitAddress
  cases blitDescends src dst <;>
    simp only [if_true, if_false, Bool.false_eq_true, Bool.or_eq_false_iff, decide_eq_false_iff_not, rectSpan] <;>
    omega

/-- Both addresses of a `BLIT` are moved alike, so that the chip's check of the move is the wrapper's (R213, R420). -/
theorem moveUnreliable_of_acceptsMove {c : Cfg} {src dst w h stride : Nat}
    (hacc : c.acceptsMove src dst w h stride) :
    moveUnreliable c (blitAddress (blitDescends src dst) src w h stride)
      (blitAddress (blitDescends src dst) dst w h stride) w h stride = false := by
  obtain ⟨-, -, -, -, -, -, hmin, hmax, hoverlap⟩ := hacc
  have hov : overlap1 src dst h stride = false := by
    rwa [← overlap1_iff_overlapsByOne, Bool.not_eq_true] at hoverlap
  simp [moveUnreliable, blitAddress_descends, overlap1_shift, hov, hmin, hmax]

/-- The addresses a `BLIT` gives the engine are byte addresses of the SRAM (R423). -/
theorem blitAddress_lt_of_acceptsMove {c : Cfg} {src dst w h stride : Nat}
    (hacc : c.acceptsMove src dst w h stride) (hw : 0 < w) :
    blitAddress (blitDescends src dst) src w h stride < 131072 ∧
      blitAddress (blitDescends src dst) dst w h stride < 131072 := by
  obtain ⟨-, -, -, -, hsrc, hdst, -⟩ := hacc
  rw [blitAddress_descends, blitAddress_descends]
  split <;> omega

/-- The shadow fields that a `BLIT` writes past its checks are a move that `BMSTART` starts (R213, R420, R423). -/
theorem State.startCheck_blit {s : State} {src dst w h stride : Nat} (hv : s.cfg.valid = true)
    (hacc : s.cfg.acceptsMove src dst w h stride) (hb : s.chip.busy = false)
    (hbmc1 : s.chip.bmc1 = some (blitBmc1 s.cfg src dst w h stride))
    (hbmc2 : s.chip.bmc2 = some ⟨BitVec.ofNat 16 stride, BitVec.ofNat 8 w, BitVec.ofNat 8 (h - 1)⟩) :
    ∃ v, s.startCheck = .ok v := by
  obtain ⟨hmin1, -, hmax255, -⟩ := Cfg.valid_moveLimits hv
  have hpos : 0 < w := by obtain ⟨-, -, -, -, -, -, hmin, -⟩ := hacc; omega
  have hinside := moveOutside_of_acceptsMove hacc hpos
  have hreliable := moveUnreliable_of_acceptsMove hacc
  obtain ⟨hsa, hda⟩ := blitAddress_lt_of_acceptsMove hacc hpos
  obtain ⟨h0, h256, hst, -, -, -, -, hmax, -⟩ := hacc
  have hsrc := (Bmc1.src_toNat (blitBmc1 s.cfg src dst w h stride)).trans (word_and_parity hsa)
  have hdst := (Bmc1.dst_toNat (blitBmc1 s.cfg src dst w h stride)).trans (word_and_parity hda)
  have hdir : (blitBmc1 s.cfg src dst w h stride).dir = blitDescends src dst := rfl
  have hwidth : (BitVec.ofNat 8 w).toNat = w := by rw [BitVec.toNat_ofNat, Nat.mod_eq_of_lt (by omega)]
  have hheight : (BitVec.ofNat 8 (h - 1)).toNat + 1 = h := by
    rw [BitVec.toNat_ofNat, Nat.mod_eq_of_lt (by omega)]
    omega
  have hstride : (BitVec.ofNat 16 stride).toNat = stride := by rw [BitVec.toNat_ofNat, Nat.mod_eq_of_lt (by omega)]
  unfold State.startCheck
  rw [hb, hbmc1, hbmc2]
  simp only [hsrc, hdst, hdir, hwidth, hheight, hstride]
  rw [if_neg Bool.false_ne_true, if_neg (Nat.ne_of_gt hpos), if_neg (Bool.eq_false_iff.mp hinside),
    if_neg (Bool.eq_false_iff.mp hreliable)]
  exact ⟨_, rfl⟩

/-- The first parameter frame of a `BLIT` writes its shadow fields, also while a move runs (R199, R420). -/
theorem State.send_blitFrame1 {s : State} (hv : s.cfg.valid = true) (src dst w h stride : Nat) :
    (s.sendFrame (frameBytes s.cfg.opmap (blitFrame1 s.cfg src dst w h stride))).faults = s.faults ∧
    (s.sendFrame (frameBytes s.cfg.opmap (blitFrame1 s.cfg src dst w h stride))).chip.bmc1 =
      some (blitBmc1 s.cfg src dst w h stride) := by
  obtain ⟨-, -, -, -, -, -, hlpf⟩ := Cfg.valid_levels hv
  obtain ⟨hreserved, hdir, hdodd, hsodd, hfilter⟩ := blitFlags_bits s.cfg hlpf (blitDescends src dst)
    (blitAddress (blitDescends src dst) src w h stride) (blitAddress (blitDescends src dst) dst w h stride)
  obtain ⟨hidle, -, -, hfaults, -⟩ := State.send_bmc1 (Cfg.valid_injective hv)
    (BitVec.ofNat 16 (blitAddress (blitDescends src dst) src w h stride / 2))
    (BitVec.ofNat 16 (blitAddress (blitDescends src dst) dst w h stride / 2)) _ hreserved
  rw [hdir, hdodd, hsodd, hfilter] at hidle
  have hregs := State.idleChip_registers (s.sendFrame (frameBytes s.cfg.opmap (blitFrame1 s.cfg src dst w h stride)))
  exact ⟨hfaults, (congrArg Chip.bmc1 hregs.symm :).trans (congrArg Chip.bmc1 hidle)⟩

/-- As `State.send_blitFrame1`, for the second. -/
theorem State.send_blitFrame2 {s : State} (hv : s.cfg.valid = true) (w h stride : Nat) :
    (s.sendFrame (frameBytes s.cfg.opmap (blitFrame2 w h stride))).faults = s.faults ∧
    (s.sendFrame (frameBytes s.cfg.opmap (blitFrame2 w h stride))).chip.bmc1 = s.chip.bmc1 ∧
    (s.sendFrame (frameBytes s.cfg.opmap (blitFrame2 w h stride))).chip.bmc2 =
      some ⟨BitVec.ofNat 16 stride, BitVec.ofNat 8 w, BitVec.ofNat 8 (h - 1)⟩ := by
  obtain ⟨hidle, -, -, hfaults, -⟩ := State.send_bmc2 (Cfg.valid_injective hv) (BitVec.ofNat 16 stride)
    (BitVec.ofNat 8 w) (BitVec.ofNat 8 (h - 1))
  have hregs := State.idleChip_registers (s.sendFrame (frameBytes s.cfg.opmap (blitFrame2 w h stride)))
  have hkept : s.idleChip.bmc1 = s.chip.bmc1 := (congrArg Chip.bmc1 s.idleChip_registers :)
  exact ⟨hfaults, (congrArg Chip.bmc1 hregs.symm :).trans ((congrArg Chip.bmc1 hidle).trans hkept),
    (congrArg Chip.bmc2 hregs.symm :).trans (congrArg Chip.bmc2 hidle)⟩

/-! ## A host op in an initialised block -/

/-- In a host op that began in `s`, with no `HOST_RESET` on its way: no frame so far has raised a fault, the chip is
ready for memory frames, and a running move is one the block knows of (R428, R466). -/
structure State.Faultless (s t : State) : Prop extends s.MoveKnown t where
  unfaulted : t.faults = s.faults
  ready : t.chip.Ready t.cfg

/-- As `State.Faultless`, with no move running or pending: what a drain leaves (R428). -/
structure State.FaultlessIdle (s t : State) : Prop extends s.Faultless t where
  quiescent : t.quiescent

theorem State.Faultless.fail {s t : State} (h : s.Faultless t) (e : Err) : s.Faultless (t.fail e) :=
  { h.toMoveKnown.fail e with unfaulted := h.unfaulted, ready := h.ready }

theorem State.Faultless.sendFrame {s t : State} (h : s.Faultless t) {i : Instr} (hi : i ≠ .bmstart)
    (hf : (t.sendFrame (frameBytes t.cfg.opmap i)).faults = t.faults) :
    s.Faultless (t.sendFrame (frameBytes t.cfg.opmap i)) :=
  { h.toMoveKnown.sendFrame hi hf with
    unfaulted := hf.trans h.unfaulted
    ready := State.sendFrame_ready h.ready _ }

theorem State.FaultlessIdle.emit {s t : State} (h : s.FaultlessIdle t) {i : Instr} (hi : i ≠ .bmstart)
    (hf : (t.sendFrame (frameBytes t.cfg.opmap i)).faults = t.faults) :
    (t.emit i).meets s.FaultlessIdle fun _ => s.Faultless := by
  obtain ⟨hidle, hpending⟩ := h.quiescent
  obtain ⟨-, hblock, -⟩ := t.sendFrame_host (frameBytes t.cfg.opmap i)
  rw [h.emit_eq]
  exact { h.toFaultless.sendFrame hi hf with
    quiescent := ⟨State.sendFrame_idle hidle hi, by rw [hblock, hpending]⟩ }

section Valid

variable {s t : State} (hv : s.cfg.valid = true)
include hv

/-- A wait raises no fault and keeps the registers; where it goes on, no move runs or is pending (R427). -/
theorem State.Faultless.pollLoop {k : Chip} (h : s.Faultless t) (hk : t.chip.registers = k) (n : Nat) :
    (State.pollLoop n t).meets (fun u => s.FaultlessIdle u ∧ u.chip.registers = k) fun _ => s.Faultless := by
  induction n generalizing t with
  | zero => exact h.fail .timeout
  | succ n ih =>
    have hm : t.cfg.opmap.injective = true := h.cfg ▸ Cfg.valid_injective hv
    obtain ⟨hbusy, hf, hchip, -⟩ := State.send_status hm
    have hsent : s.Faultless (t.sendFrame (frameBytes t.cfg.opmap statusFrame)) := h.sendFrame nofun hf
    have hregs : (t.sendFrame (frameBytes t.cfg.opmap statusFrame)).chip.registers = k := by
      rw [hchip, State.transfer_registers, hk]
    rw [State.pollLoop, h.emit_eq, Run.andThen_ok, hbusy]
    split
    · exact ih hsent hregs
    · next hidle =>
      have hidle' := Bool.eq_false_iff.mpr hidle
      exact ⟨{ hsent with known := by simp [hidle'], quiescent := ⟨hidle', rfl⟩ }, hregs⟩

/-- A frame that passes its checks raises no fault after a drain (R190, R428). -/
theorem State.FaultlessIdle.send (h : s.FaultlessIdle t) {i : Instr} (hi : framePasses s.cfg i) :
    (t.emit i).meets s.FaultlessIdle fun _ => s.Faultless := by
  have hlink : t.linkIdle := ⟨h.cfg ▸ Cfg.valid_injective hv, h.noReset, h.quiescent.1⟩
  obtain ⟨r, u, hemit, hsent⟩ := State.emit_passes hlink (h.cfg ▸ hi) fun _ => h.ready.memoryModeSet
  rw [h.emit_eq] at hemit
  obtain ⟨-, rfl⟩ := Run.ok.inj hemit
  exact h.emit (by rintro rfl; exact hi) hsent.faults

/-- A read of one byte raises no fault after a drain: the byte is written (R206, R466). -/
theorem State.FaultlessIdle.read (h : s.FaultlessIdle t) {a : Nat} (ha : a < 131072) :
    (t.emit (readByteFrame a)).meets s.FaultlessIdle fun _ => s.Faultless := by
  obtain ⟨hidle, hpending⟩ := h.quiescent
  have hv' : t.cfg.valid = true := h.cfg ▸ hv
  obtain ⟨b, hb⟩ := Option.isSome_iff_exists.mp (h.ready.full a ha)
  rw [← State.settledMem_of_idle hidle] at hb
  obtain ⟨-, -, -, hlimit⟩ := Cfg.valid_moveLimits hv'
  obtain ⟨u, -, hrun, -, -, -, hfaults, -⟩ := State.drainAndRead_ok (Cfg.valid_injective hv') hlimit h.noReset
    (.inl ⟨hpending, hidle⟩) h.ready.memoryModeSet ha hb
  have hdrain : t.drain = .ok () t := by simp [State.drain, hpending]
  rw [State.drainAndRead, hdrain, Run.andThen_ok, h.emit_eq, Run.andThen_ok] at hrun
  obtain ⟨-, rfl⟩ := Run.ok.inj hrun
  exact h.emit (i := readByteFrame a) nofun hfaults

/-- The start of a move that passes its checks, which the block notes as pending (R213, R424). -/
theorem State.FaultlessIdle.start (h : s.FaultlessIdle t) {src dst w height stride : Nat}
    (hacc : s.cfg.acceptsMove src dst w height stride)
    (hbmc1 : t.chip.bmc1 = some (blitBmc1 s.cfg src dst w height stride))
    (hbmc2 : t.chip.bmc2 = some ⟨BitVec.ofNat 16 stride, BitVec.ofNat 8 w, BitVec.ofNat 8 (height - 1)⟩) :
    ((t.emit .bmstart).andThen fun _ u => .ok () (u.setPending true)).meets s.Faultless fun _ => s.Faultless := by
  obtain ⟨hidle, -⟩ := h.quiescent
  have hsend := State.sendFrame_instr (s := t) (h.cfg ▸ Cfg.valid_injective hv) Laws.EncodesItsFormat.bmstart rfl rfl
  have hcfg := h.cfg
  rw [← hcfg] at hv hacc hbmc1
  obtain ⟨v, hstart⟩ := State.startCheck_blit (s := t.transfer (frameBytes t.cfg.opmap .bmstart))
    (by rwa [State.transfer_idle hidle]) (by rwa [State.transfer_idle hidle]) (by rwa [State.transfer_idle hidle])
    (by rwa [State.transfer_idle hidle]) (by rwa [State.transfer_idle hidle])
  have hf : (t.sendFrame (frameBytes t.cfg.opmap .bmstart)).faults = t.faults := by
    obtain ⟨-, -, -, -, -, hfaults, -⟩ := t.transfer_host (frameBytes t.cfg.opmap .bmstart)
    rw [hsend]
    simp only [State.portInstr, State.portBmstart, hstart]
    exact hfaults
  rw [h.emit_eq]
  exact { h.toUnharmed.sendFrame (State.noBusyAccess_of_eq hf) with
    known := fun _ => rfl
    unfaulted := hf.trans h.unfaulted
    ready := State.sendFrame_ready h.ready _ }

/-- A block move past its checks raises no fault: its parameter frames while the old move may run, the wait, and the
start (R420, R424). -/
theorem State.Faultless.blitFrames (h : s.Faultless t) {src dst w height stride : Nat}
    (hacc : s.cfg.acceptsMove src dst w height stride) :
    (t.blitFrames src dst w height stride).meets s.Faultless fun _ => s.Faultless := by
  have hvt : t.cfg.valid = true := h.cfg ▸ hv
  obtain ⟨hfaults1, hbmc1⟩ := State.send_blitFrame1 hvt src dst w height stride
  have h1 := h.sendFrame (i := blitFrame1 t.cfg src dst w height stride) nofun hfaults1
  obtain ⟨hfaults2, hkept, hbmc2⟩ := State.send_blitFrame2 (h1.cfg.symm ▸ hv) w height stride
  have h2 := h1.sendFrame (i := blitFrame2 w height stride) nofun hfaults2
  rw [State.blitFrames, h.emit_eq, Run.andThen_ok, h1.emit_eq, Run.andThen_ok]
  refine (h2.pollLoop hv rfl _).andThen fun _ u ⟨hu, hregs⟩ => hu.start hv hacc ?_ ?_
  · rw [← h.cfg, ← hbmc1, ← hkept]
    exact (congrArg Chip.bmc1 hregs :)
  · rw [← hbmc2]
    exact (congrArg Chip.bmc2 hregs :)

end Valid

/-- The parts of a host op, from an initialised state on. -/
theorem State.Faultless.hostRule (s : State) : HostRule s.cfg s.Faultless s.FaultlessIdle fun _ => s.Faultless where
  cfg h := h.cfg
  ofDrained h := h.toFaultless
  fail e h := h.fail e
  clip h := { h with }
  burst v h := { h with }
  idle h hp := { h with quiescent := ⟨Bool.eq_false_iff.mpr fun hb => by simp [h.known hb] at hp, hp⟩ }
  wait hv h := (h.pollLoop hv rfl _).mono fun _ hu => hu.1
  send hv h hi := h.send hv hi
  read hv h ha := h.read hv ha
  move hv h hacc := h.blitFrames hv hacc

/-- Settles O47: every frame of a host op passes its checks, and no frame takes the chip's settings or a written byte
away. -/
theorem initialisedHostOpsRaiseNoFault : Obligations.InitialisedHostOpsRaiseNoFault := by
  intro i s t hi hinit hreset h
  obtain ⟨hv, hready, hknown⟩ := s.initialised_iff.mp hinit
  have hstart : s.beginOp.Faultless s.beginOp :=
    ⟨⟨⟨rfl, hreset, State.noBusyAccess_of_eq rfl⟩, hknown⟩, rfl, hready⟩
  obtain ⟨r, hrun, hend⟩ := exec_host hi s
  have hmeets := (State.Faultless.hostRule s.beginOp).hostRun hstart hrun
  rcases hend with ⟨q, hq, -⟩ | ⟨u, rfl, -⟩
  · obtain rfl := Host.Outcome.next.inj (hq.symm.trans h)
    have hlast : s.beginOp.Faultless r.last := Run.meets.last hmeets
    have hv' : r.last.cfg.valid = true := hlast.cfg ▸ hv
    exact ⟨hlast.unfaulted, (State.initialised_iff _).mpr ⟨hv', hlast.ready, hlast.known⟩⟩
  · exact hmeets.elim

end Sys2Proof.Machine

/-! SUPPORT. Proofs for the other statements of spec/60_exceptions.md: faults are precise (R469), and `FIRST_ERR` keeps
the first error (R463). -/

namespace Sys2Proof.Machine

/-! ## Precise faults -/

/-- `s` with another fault record. -/
def State.withRecord (s : State) (l : List FaultEntry) : State := { s with faults := l }

/-- Whatever the fault record of `s`, the port's step raises no fault, or it raises one and the same fault and does no
more than answer (R469). -/
inductive State.PreciseIn (s : State) (port : State → State) : Prop where
  | quiet (h : ∀ l, (port (s.withRecord l)).faults = l)
  | raises (f : ChipFault) (b0 : Byte) (a : Option Nat)
    (h : ∀ l, ∃ r, port (s.withRecord l) = ((s.withRecord l).raise f b0 a).respond r)

theorem State.PreciseIn.faultIsPrecise {s : State} {port : State → State} (h : s.PreciseIn port) :
    s.faultIsPrecise (port s) (port { s with faults := [] }) := by
  cases h with
  | quiet h => exact ⟨fun _ => h s.faults, fun hne => absurd (h []) hne⟩
  | raises f b0 a h =>
    obtain ⟨r, hr : port s = (s.raise f b0 a).respond r⟩ := h s.faults
    obtain ⟨r', hr' : port { s with faults := [] } = ((s.withRecord []).raise f b0 a).respond r'⟩ := h []
    rw [hr, hr']
    exact ⟨nofun, fun _ => ⟨⟨⟨f, b0, a⟩, rfl, rfl⟩, rfl, rfl, rfl⟩⟩

theorem State.PreciseIn.congr {s : State} {port port' : State → State} (h : s.PreciseIn port)
    (he : ∀ l, port' (s.withRecord l) = port (s.withRecord l)) : s.PreciseIn port' := by
  cases h with
  | quiet h => exact .quiet fun l => he l ▸ h l
  | raises f b0 a h => exact .raises f b0 a fun l => he l ▸ h l

/-- A register frame whose check and write do not depend on the fault record (R198). -/
theorem State.registerFrame_preciseIn (s : State) {n : Nat} {c : Cmd} {fault : Option ChipFault} (written : Chip)
    {port : State → State} (h : ∀ l, port (s.withRecord l) = (s.withRecord l).registerFrame n c fault written) :
    s.PreciseIn port := by
  cases fault with
  | none => exact .quiet fun l => by rw [h l]; rfl
  | some f => exact .raises f (s.opcode c) none fun l => ⟨_, h l⟩

theorem State.portWrite_preciseIn (s : State) (a : BitVec 24) (data : List Byte) :
    s.PreciseIn (State.portWrite · a data) := by
  by_cases hdata : data.isEmpty
  · exact .raises .frameLength (s.opcode .write) (some a.toNat) fun l => ⟨_, by rw [State.portWrite, if_pos hdata]; rfl⟩
  · have hcheck : ∀ l, (s.withRecord l).memoryFault a data.length = s.memoryFault a data.length := fun _ => rfl
    cases hf : s.memoryFault a data.length with
    | none => exact .quiet fun l => by rw [State.portWrite, if_neg hdata, hcheck, hf]; rfl
    | some f =>
      exact .raises f (s.opcode .write) (some a.toNat) fun l =>
        ⟨_, by rw [State.portWrite, if_neg hdata, hcheck, hf]; rfl⟩

theorem State.portRead_preciseIn (s : State) (a : BitVec 24) (filler : List Byte) :
    s.PreciseIn (State.portRead · a filler) := by
  by_cases hfiller : filler.isEmpty
  · exact .raises .frameLength (s.opcode .read) (some a.toNat) fun l => ⟨_, by rw [State.portRead, if_pos hfiller]; rfl⟩
  · have hcheck : ∀ l, (s.withRecord l).memoryFault a filler.length = s.memoryFault a filler.length := fun _ => rfl
    cases hf : s.memoryFault a filler.length with
    | some f =>
      exact .raises f (s.opcode .read) (some a.toNat) fun l =>
        ⟨_, by rw [State.portRead, if_neg hfiller, hcheck, hf]; rfl⟩
    | none =>
      have hmem : ∀ l, (s.withRecord l).chip.mem = s.chip.mem := fun _ => rfl
      cases hu : Memory.firstUnwritten s.chip.mem a.toNat filler.length with
      | none => exact .quiet fun l => by rw [State.portRead, if_neg hfiller, hcheck, hf, hmem, hu]; rfl
      | some u =>
        exact .raises .unwrittenRead (s.opcode .read) (some u) fun l =>
          ⟨_, by rw [State.portRead, if_neg hfiller, hcheck, hf, hmem, hu]; rfl⟩

theorem State.portBmstart_preciseIn (s : State) : s.PreciseIn State.portBmstart := by
  have hcheck : ∀ l, (s.withRecord l).startCheck = s.startCheck := fun _ => rfl
  cases hf : s.startCheck with
  | ok v => exact .quiet fun l => by rw [State.portBmstart, hcheck, hf]; rfl
  | error f =>
    exact .raises f (s.opcode .bmstart) s.chip.moveSource fun l => ⟨_, by rw [State.portBmstart, hcheck, hf]; rfl⟩

theorem State.portInstr_preciseIn (s : State) (i : Instr) : s.PreciseIn (State.portInstr · i) := by
  cases i with
  | write a data => exact s.portWrite_preciseIn a data
  | read a filler => exact s.portRead_preciseIn a filler
  | bmstart => exact s.portBmstart_preciseIn
  | multiic d =>
    exact s.registerFrame_preciseIn (fault := if d.toNat ≠ s.cfg.multiicOff then some .multiic else none)
      (s.chip.load (.multiic d)) fun _ => rfl
  | wrsr d => exact s.registerFrame_preciseIn (s.chip.load (.wrsr d)) fun _ => rfl
  | picstart v => exact s.registerFrame_preciseIn (s.chip.load (.picstart v)) fun _ => rfl
  | picend v => exact s.registerFrame_preciseIn (s.chip.load (.picend v)) fun _ => rfl
  | linelen v => exact s.registerFrame_preciseIn (s.chip.load (.linelen v)) fun _ => rfl
  | vdctrl1 v => exact s.registerFrame_preciseIn (s.chip.load (.vdctrl1 v)) fun _ => rfl
  | indexstart v => exact s.registerFrame_preciseIn (s.chip.load (.indexstart v)) fun _ => rfl
  | bmc1 srcW dstW f => exact s.registerFrame_preciseIn (s.chip.load (.bmc1 srcW dstW f)) fun _ => rfl
  | _ => exact .quiet fun _ => rfl

/-- A frame that decodes to no instruction raises its fault and does no more than answer (R191, R192). -/
theorem State.rejectFrame_preciseIn (s : State) (f : ChipFault) (b0 : Byte) (payload : List Byte) :
    s.PreciseIn (State.rejectFrame · f b0 payload) :=
  .raises f b0 ((s.cfg.opmap.command b0).bind fun c => s.faultAddress c payload) fun _ => ⟨_, rfl⟩

theorem State.portFrame_preciseIn (s : State) (bytes : List Byte) : s.PreciseIn (State.portFrame · bytes) := by
  have hdec : ∀ l, decodeFrame (s.withRecord l).cfg.opmap bytes = decodeFrame s.cfg.opmap bytes := fun _ => rfl
  cases hd : decodeFrame s.cfg.opmap bytes with
  | instr i => exact (s.portInstr_preciseIn i).congr fun l => by rw [State.portFrame, hdec, hd]
  | unknownOpcode b0 =>
    exact (s.rejectFrame_preciseIn .unknownOpcode b0 bytes.tail).congr fun l => by rw [State.portFrame, hdec, hd]
  | frameLength b0 =>
    exact (s.rejectFrame_preciseIn .frameLength b0 bytes.tail).congr fun l => by rw [State.portFrame, hdec, hd]
  | noFrame | unknownHostOp | callArity => exact .quiet fun l => by rw [State.portFrame, hdec, hd]; rfl

/-- Settles O15: no check of the port looks at the fault record. -/
theorem faultsArePrecise : Obligations.FaultsArePrecise := by
  refine ⟨fun i s t u hi ht hu => ?_, fun s bytes => (s.portFrame_preciseIn bytes).faultIsPrecise, fun _ => rfl⟩
  obtain rfl := Host.Outcome.next.inj ((exec_frame hi s).symm.trans ht)
  obtain rfl := Host.Outcome.next.inj ((exec_frame hi _).symm.trans hu)
  exact (s.portInstr_preciseIn i).faultIsPrecise

/-! ## The first error -/

/-- What a host op returns at the end of its run, in the terms of R133 and R461: `E_OK` where it has gone on to its end,
the error, with value 0, where it has failed. -/
def Run.returns (r : Run Nat) (o : Host.Outcome State Fault Refusal) : Prop :=
  match r with
  | .ok _ t => ∃ q, q.err = .ok ∧ o = .next { t with result := some q }
  | .err e t => ∃ q, (q = .code e ∨ q = .value e 0) ∧ o = .next { t with result := some q }
  | .cut t => o = .next t.hostReset

theorem Run.returns_finishCode (r : Run Unit) : (r.andThen fun _ t => Run.ok 0 t).returns (finishCode r) := by
  cases r with
  | ok a t => exact ⟨.code .ok, rfl, rfl⟩
  | err e t => exact ⟨.code e, .inl rfl, rfl⟩
  | cut t => rfl

theorem Run.returns_finishValue (r : Run Nat) : r.returns (finishValue r) := by
  cases r with
  | ok v t => exact ⟨.value .ok v, rfl, rfl⟩
  | err e t => exact ⟨.value e 0, .inr rfl, rfl⟩
  | cut t => rfl

/-- As `exec_host`, with what the host op returns. -/
theorem exec_host_returns {i : Instr} (hi : i.isFrame = false) (s : State) :
    ∃ r, s.beginOp.hostRun i = some r ∧ r.returns (exec i s) := by
  cases i with
  | init | writeIndexEntry | fillProtoline | setColorBurst | writePixel | writeByte | writeWord | blit | blitSplit
  | waitIdle => exact ⟨_, rfl, Run.returns_finishCode _⟩
  | protolineAddress | pictureLineAddress | pixelAddress | readPixel | readByte =>
    exact ⟨_, rfl, Run.returns_finishValue _⟩
  | readStatus => exact ⟨_, rfl, _, rfl, rfl⟩
  | _ => cases hi

/-- In a host op that began in `s`, with no `HOST_RESET` on its way: no error has been recorded so far. -/
structure State.NoError (s t : State) : Prop where
  cfg : t.cfg = s.cfg
  noReset : t.hostResetIn = none
  firstErr : t.block.firstErr = s.block.firstErr

/-- The error `e` has been recorded since `s`, and no other (R463). -/
def State.errorKept (s : State) (e : Err) (t : State) : Prop :=
  t.block.firstErr = if s.block.firstErr = .ok then e else s.block.firstErr

theorem State.NoError.fail {s t : State} (h : s.NoError t) (e : Err) : s.errorKept e (t.fail e) := by
  rw [State.errorKept, State.fail_block, h.firstErr]

theorem State.NoError.emit {s t : State} (h : s.NoError t) (i : Instr) :
    (t.emit i).meets s.NoError s.errorKept := by
  obtain ⟨hcfg, hblock, -, -, -, hr⟩ := t.sendFrame_host (frameBytes t.cfg.opmap i)
  rw [State.emit_eq (by simp [h.noReset])]
  exact ⟨hcfg.trans h.cfg, by rw [hr, h.noReset]; rfl, by rw [hblock, h.firstErr]⟩

theorem State.NoError.pollLoop {s t : State} (h : s.NoError t) (n : Nat) :
    (State.pollLoop n t).meets s.NoError s.errorKept := by
  induction n generalizing t with
  | zero => exact h.fail .timeout
  | succ n ih =>
    refine (h.emit statusFrame).andThen fun r u hu => ?_
    split
    · exact ih hu
    · exact { hu with }

theorem State.NoError.blitFrames {s t : State} (h : s.NoError t) (src dst w height stride : Nat) :
    (t.blitFrames src dst w height stride).meets s.NoError s.errorKept :=
  (h.emit _).andThen fun _ _ hu => (hu.emit _).andThen fun _ _ hx => (hx.pollLoop _).andThen fun _ _ hy =>
    (hy.emit _).andThen fun _ _ hz => { hz with }

/-- The parts of a host op record no error but the one they fail with. -/
theorem State.NoError.hostRule (s : State) : HostRule s.cfg s.NoError s.NoError s.errorKept where
  cfg h := h.cfg
  ofDrained := id
  fail e h := h.fail e
  clip h := { h with }
  burst _ h := { h with }
  idle h _ := h
  wait _ h := h.pollLoop _
  send _ h _ := h.emit _
  read _ h _ := h.emit _
  move _ h _ := h.blitFrames _ _ _ _ _

/-- Settles O41: the run of a host op records an error where it fails with it and returns it, and nowhere else. -/
theorem firstErrorIsSticky : Obligations.FirstErrorIsSticky := by
  intro i s t hi hreset h
  obtain ⟨r, hrun, hret⟩ := exec_host_returns hi s
  rw [h] at hret
  have hmeets := (State.NoError.hostRule s.beginOp).hostRun ⟨rfl, hreset, rfl⟩ hrun
  cases r with
  | ok v u =>
    obtain ⟨q, hq, ht⟩ := hret
    obtain rfl := Host.Outcome.next.inj ht
    refine ⟨q, rfl, ?_, ?_⟩
    · rw [hq]
      split
      · next hok => exact hmeets.firstErr.trans hok
      · exact hmeets.firstErr
    · rintro e v rfl hne
      exact absurd hq hne
  | err e u =>
    obtain ⟨q, hq, ht⟩ := hret
    obtain rfl := Host.Outcome.next.inj ht
    refine ⟨q, rfl, ?_, ?_⟩
    · rcases hq with rfl | rfl <;> exact hmeets
    · rcases hq with rfl | rfl
      · nofun
      · rintro _ _ ⟨⟩ _
        rfl
  | cut u => exact hmeets.elim

end Sys2Proof.Machine

/-! SUPPORT. Proofs for the statements of spec/70_reset_and_hazards.md about the two resets: `RESET` (R500) and
`HOST_RESET` (R501), between two host ops and within one. -/

namespace Sys2Proof.Machine

/-! ## A reset taken from the inputs -/

/-- A power-on that stands first is taken, unless a `HOST_RESET` is due (R500). -/
theorem State.fetch_powerOn {s : State} {rest : List Input} (hr : s.hostResetIn ≠ some 0)
    (hin : s.inputs = .powerOn :: rest) : s.fetch = .settled (State.powerOn { s with inputs := rest }) := by
  unfold State.fetch
  split
  · exact absurd ‹_› hr
  · rw [hin]

/-- A `HOST_RESET` between two host ops that stands first is taken, unless another is due (R501). -/
theorem State.fetch_hostReset {s : State} {rest : List Input} (hr : s.hostResetIn ≠ some 0)
    (hin : s.inputs = .hostReset 0 :: rest) : s.fetch = .settled (State.hostReset { s with inputs := rest }) := by
  unfold State.fetch
  split
  · exact absurd ‹_› hr
  · rw [hin]

/-- Settles O50: a power-on puts the state of `State.resetWith`, whose chip is the table's. -/
theorem resetLeavesTheTablesValues : Obligations.ResetLeavesTheTablesValues := by
  intro s rest hr hin
  refine ⟨_, step_of_settled (State.fetch_powerOn hr hin), rfl, rfl, ?_⟩
  rintro u (rfl | ⟨c, rfl⟩) <;> exact ⟨fun a => Memory.read_nil a, rfl, rfl, rfl, rfl⟩

/-! ## A frame sent while a `HOST_RESET` is on its way -/

/-- `s` with a `HOST_RESET` on its way, due after `k` more frames (R501). -/
def State.withReset (s : State) (k : Nat) : State := { s with hostResetIn := some k }

theorem State.registerFrame_withReset (s : State) (k n : Nat) (c : Cmd) (f : Option ChipFault) (w : Chip) :
    (s.withReset k).registerFrame n c f w = (s.registerFrame n c f w).withReset k := by
  cases f <;> rfl

theorem State.portWrite_withReset (s : State) (k : Nat) (a : BitVec 24) (data : List Byte) :
    (s.withReset k).portWrite a data = (s.portWrite a data).withReset k := by
  have hcheck : (s.withReset k).memoryFault a data.length = s.memoryFault a data.length := rfl
  rw [State.portWrite, State.portWrite, hcheck]
  split
  · rfl
  · split <;> rfl

theorem State.portRead_withReset (s : State) (k : Nat) (a : BitVec 24) (filler : List Byte) :
    (s.withReset k).portRead a filler = (s.portRead a filler).withReset k := by
  have hcheck : (s.withReset k).memoryFault a filler.length = s.memoryFault a filler.length := rfl
  have hchip : (s.withReset k).chip = s.chip := rfl
  rw [State.portRead, State.portRead, hcheck, hchip]
  split
  · rfl
  · split
    · rfl
    · split <;> rfl

theorem State.portBmstart_withReset (s : State) (k : Nat) :
    (s.withReset k).portBmstart = s.portBmstart.withReset k := by
  have hcheck : (s.withReset k).startCheck = s.startCheck := rfl
  rw [State.portBmstart, State.portBmstart, hcheck]
  split <;> rfl

/-- No step of the port looks at a `HOST_RESET` on its way (R190, R501). -/
theorem State.portInstr_withReset (s : State) (k : Nat) (i : Instr) :
    (s.withReset k).portInstr i = (s.portInstr i).withReset k := by
  cases i with
  | write a data => exact s.portWrite_withReset k a data
  | read a filler => exact s.portRead_withReset k a filler
  | bmstart => exact s.portBmstart_withReset k
  | multiic | wrsr | picstart | picend | linelen | vdctrl1 | indexstart | bmc1 =>
    exact s.registerFrame_withReset k _ _ _ _
  | _ => rfl

theorem State.portFrame_withReset (s : State) (k : Nat) (bytes : List Byte) :
    (s.withReset k).portFrame bytes = (s.portFrame bytes).withReset k := by
  have hmap : (s.withReset k).cfg = s.cfg := rfl
  rw [State.portFrame, State.portFrame, hmap]
  split
  · exact s.portInstr_withReset k _
  all_goals rfl

theorem State.engineGap_withReset (s : State) (k : Nat) (statusNext : Bool) :
    (s.withReset k).engineGap statusNext = (s.engineGap statusNext).withReset k := by
  rcases s.engineGap_cases statusNext with ⟨hb, h⟩ | ⟨hb, hdue, h⟩ | ⟨hb, hd, hbound, h⟩ <;> rw [h]
  · exact if_neg (Bool.eq_false_iff.mp hb)
  · exact (if_pos hb).trans (if_pos hdue)
  · exact (if_pos hb).trans (if_neg (not_or.mpr ⟨hd, hbound⟩))

/-- A frame goes over and is executed as with no `HOST_RESET` on its way, which comes one frame nearer (R161, R501). -/
theorem State.sendFrame_withReset (s : State) (k : Nat) (bytes : List Byte) :
    (s.withReset k).sendFrame bytes = (s.sendFrame bytes).withReset (k - 1) := by
  have htransfer : (s.withReset k).transfer bytes = (s.transfer bytes).withReset (k - 1) := by
    have hmap : (s.withReset k).cfg = s.cfg := rfl
    rw [State.transfer, State.transfer, hmap, s.engineGap_withReset k]
    rfl
  rw [State.sendFrame, State.sendFrame, htransfer, State.portFrame_withReset]
  rfl

/-! ## A part of a host op, with and without a `HOST_RESET` on its way -/

/-- The run with a `HOST_RESET` on its way at its end. -/
def Run.withReset {α : Type} (k : Nat) : Run α → Run α
  | .ok a t => .ok a (t.withReset k)
  | .err e t => .err e (t.withReset k)
  | .cut t => .cut (t.withReset k)

/-- `t` has sent the frames `fs` since `s`, and no `HOST_RESET` is on its way. -/
structure State.SentUncut (s : State) (fs : List (List Byte)) (t : State) : Prop where
  noReset : t.hostResetIn = none
  sent : t.sent = s.sent ++ fs

theorem Run.meets.imp {α : Type} {Q Q' : State → Prop} {E E' : Err → State → Prop} {r : Run α} (hr : r.meets Q E)
    (hQ : ∀ t, Q t → Q' t) (hE : ∀ e t, E e t → E' e t) : r.meets Q' E' := by
  cases r with
  | ok a t => exact hQ t hr
  | err e t => exact hE e t hr
  | cut t => exact hr

/-- A part of a host op from `s` on sends its frames and ends in the run `r`, while no `HOST_RESET` is on its way. With
one due after `k` frames it ends in `q k`: cut short after the first `k` frames where there are more, else as `r` does,
with the reset that many frames nearer (R501). -/
def Run.cutsAfter {α : Type} (s : State) (r : Run α) (q : Nat → Run α) : Prop :=
  ∃ fs, r.meets (s.SentUncut fs) (fun _ => s.SentUncut fs) ∧
    (∀ k, k < fs.length → ∃ t, q k = .cut t ∧ t.sent = s.sent ++ fs.take k) ∧
    ∀ k, q (fs.length + k) = r.withReset k

namespace Run.cutsAfter

section Parts

variable {α β : Type} {s : State}

/-- A part that goes on without a frame. -/
theorem ok (a : α) {t : State} (ht : t.hostResetIn = none) (hsent : t.sent = s.sent) :
    cutsAfter s (.ok a t) fun k => .ok a (t.withReset k) :=
  ⟨[], ⟨ht, hsent.trans (List.append_nil _).symm⟩, nofun, fun k => by rw [List.length_nil, Nat.zero_add]; rfl⟩

/-- A choice that does not depend on a reset on its way. -/
theorem ite {c : Prop} [Decidable c] {r r' : Run α} {q q' : Nat → Run α} (hr : cutsAfter s r q)
    (hr' : cutsAfter s r' q') : cutsAfter s (if c then r else r') fun k => if c then q k else q' k := by
  by_cases h : c
  · simpa only [if_pos h] using hr
  · simpa only [if_neg h] using hr'

/-- The rest of a part is cut short where the part has not used up the frames that are left. -/
theorem andThen {r : Run α} {q : Nat → Run α} {f : α → State → Run β} (hr : cutsAfter s r q)
    (hf : ∀ a t, t.hostResetIn = none → cutsAfter t (f a t) fun k => f a (t.withReset k)) :
    cutsAfter s (r.andThen f) fun k => (q k).andThen f := by
  obtain ⟨fs, hend, hcut, hpast⟩ := hr
  have cut {k : Nat} (hk : k < fs.length) : ∃ t, (q k).andThen f = .cut t ∧ t.sent = s.sent ++ fs.take k := by
    obtain ⟨t, hq, ht⟩ := hcut k hk
    exact ⟨t, by rw [hq, Run.andThen_cut], ht⟩
  cases r with
  | cut t => exact hend.elim
  | err e t => exact ⟨fs, hend, fun _ => cut, fun k => by simp only [hpast]; rfl⟩
  | ok a t =>
    obtain ⟨hnone, hsent⟩ : s.SentUncut fs t := hend
    obtain ⟨gs, hend', hcut', hpast'⟩ := hf a t hnone
    have since {x : State} (hx : t.SentUncut gs x) : s.SentUncut (fs ++ gs) x :=
      ⟨hx.noReset, by rw [hx.sent, hsent, List.append_assoc]⟩
    have rest (k : Nat) : (q (fs.length + k)).andThen f = f a (t.withReset k) := by rw [hpast]; rfl
    refine ⟨fs ++ gs, hend'.imp (fun _ => since) fun _ _ => since, fun k hk => ?_, fun k => ?_⟩
    · obtain hk' | ⟨j, rfl⟩ := (Nat.lt_or_ge k fs.length).imp_right Nat.exists_eq_add_of_le
      · rw [List.take_append_of_le_length (Nat.le_of_lt hk')]
        exact cut hk'
      · rw [List.length_append] at hk
        obtain ⟨u, hu, hus⟩ := hcut' j (by omega)
        exact ⟨u, (rest j).trans hu, by rw [hus, hsent, List.append_assoc, List.take_length_add_append]⟩
    · rw [List.length_append, Nat.add_assoc]
      exact (rest _).trans (hpast' k)

/-! A host op's parts, with no `HOST_RESET` on its way at their start. -/

section

variable (hs : s.hostResetIn = none)
include hs

theorem failRun (e : Err) : cutsAfter s (s.failRun e : Run α) fun k => (s.withReset k).failRun e :=
  ⟨[], ⟨hs, (List.append_nil _).symm⟩, nofun, fun k => by rw [List.length_nil, Nat.zero_add]; rfl⟩

/-- A check of a host op, which fails or goes on. -/
theorem check {c : Prop} [Decidable c] {e : Err} {r : Run α} {q : Nat → Run α} (hr : cutsAfter s r q) :
    cutsAfter s (if c then s.failRun e else r) fun k => if c then (s.withReset k).failRun e else q k :=
  ite (failRun hs e) hr

/-- `EMIT`: one frame, cut short where none is left (R161, R501). -/
theorem emit (i : Instr) : cutsAfter s (s.emit i) fun k => (s.withReset k).emit i := by
  obtain ⟨-, -, hsent, -, -, hr⟩ := s.sendFrame_host (frameBytes s.cfg.opmap i)
  have later (k : Nat) : (s.withReset (1 + k)).emit i =
      (Run.ok (s.sendFrame (frameBytes s.cfg.opmap i)).response
        (s.sendFrame (frameBytes s.cfg.opmap i))).withReset k := by
    have hsend := s.sendFrame_withReset (1 + k) (frameBytes s.cfg.opmap i)
    rw [Nat.add_sub_cancel_left] at hsend
    rw [State.emit_eq (by simp [State.withReset, Nat.add_comm])]
    exact congrArg (fun t : State => Run.ok t.response t) hsend
  rw [State.emit_eq (by simp [hs])]
  refine ⟨[frameBytes s.cfg.opmap i], ⟨by rw [hr, hs]; rfl, hsent⟩, fun k hk => ?_, later⟩
  obtain rfl : k = 0 := Nat.lt_one_iff.mp hk
  exact ⟨_, State.emit_cut rfl i, (List.append_nil _).symm⟩

theorem emitAll (is : List Instr) : cutsAfter s (State.emitAll is s) fun k => State.emitAll is (s.withReset k) := by
  induction is generalizing s with
  | nil => exact ok () hs rfl
  | cons i is ih => exact (emit hs i).andThen fun _ _ ht => ih ht

theorem pollLoop (n : Nat) : cutsAfter s (State.pollLoop n s) fun k => State.pollLoop n (s.withReset k) := by
  induction n generalizing s with
  | zero => exact failRun hs .timeout
  | succ n ih =>
    exact (emit hs statusFrame).andThen fun _ _ ht => ite (ih ht) (ok () ht rfl)

/-- A drain: the poll limit does not depend on a reset on its way (R427, R428). -/
theorem drain : cutsAfter s s.drain fun k => (s.withReset k).drain :=
  ite (pollLoop hs s.pollLimit) (ok () hs rfl)

theorem drainAndSend (i : Instr) : cutsAfter s (s.drainAndSend i) fun k => (s.withReset k).drainAndSend i :=
  (drain hs).andThen fun _ _ ht => (emit ht i).andThen fun _ _ hu => ok () hu rfl

theorem drainAndRead (a : Nat) : cutsAfter s (s.drainAndRead a) fun k => (s.withReset k).drainAndRead a :=
  (drain hs).andThen fun _ _ ht => (emit ht (readByteFrame a)).andThen fun r _ hu => ok (r.getD 4 0).toNat hu rfl

/-! The host ops that send frames. -/

theorem opInit : cutsAfter s s.opInit fun k => (s.withReset k).opInit :=
  check hs <| (drain hs).andThen fun _ t ht => (emitAll ht (initBefore t.cfg)).andThen fun _ u hu =>
    (ok (s := u) () (t := u.setBurstOn true) hu rfl).andThen fun _ x hx => emitAll hx (initAfter x.cfg)

theorem opWriteIndexEntry (line kind value : Nat) :
    cutsAfter s (s.opWriteIndexEntry line kind value) fun k => (s.withReset k).opWriteIndexEntry line kind value := by
  have hcfg (k : Nat) : (s.withReset k).cfg = s.cfg := rfl
  refine check hs (check hs ?_)
  simp only [hcfg]
  cases indexEntryBytes s.cfg kind value with
  | none => exact failRun hs .range
  | some e => exact drainAndSend hs _

theorem opFillProtoline (n offset count value : Nat) :
    cutsAfter s (s.opFillProtoline n offset count value) fun k =>
      (s.withReset k).opFillProtoline n offset count value :=
  check hs (check hs (ite (ok () hs rfl) (drainAndSend hs _)))

theorem opSetColorBurst (enable : Nat) :
    cutsAfter s (s.opSetColorBurst enable) fun k => (s.withReset k).opSetColorBurst enable :=
  check hs <| check hs <| (drainAndSend hs (burstFrame s.cfg (enable == 1))).andThen fun _ _ ht =>
    ok () ht rfl

theorem opWritePixel (x y color : Nat) :
    cutsAfter s (s.opWritePixel x y color) fun k => (s.withReset k).opWritePixel x y color :=
  check hs (check hs (ite (ok () hs rfl) (drainAndSend hs _)))

theorem blitFrames (src dst w h stride : Nat) :
    cutsAfter s (s.blitFrames src dst w h stride) fun k => (s.withReset k).blitFrames src dst w h stride :=
  (emit hs (blitFrame1 s.cfg src dst w h stride)).andThen fun _ _ ht =>
    (emit ht (blitFrame2 w h stride)).andThen fun _ u hu => (pollLoop hu u.pollLimit).andThen fun _ _ hx =>
      (emit hx .bmstart).andThen fun _ _ hy => ok () hy rfl

theorem opBlit (src dst w h stride : Nat) :
    cutsAfter s (s.opBlit src dst w h stride) fun k => (s.withReset k).opBlit src dst w h stride :=
  check hs <| ite (ok () hs rfl) <| check hs <| check hs <| check hs <| check hs <| blitFrames hs src dst w h stride

theorem blitChunks (src dst w h stride : Nat) (is : List Nat) :
    cutsAfter s (State.blitChunks src dst w h stride is s) fun k =>
      State.blitChunks src dst w h stride is (s.withReset k) := by
  induction is generalizing s with
  | nil => exact ok () hs rfl
  | cons i is ih => exact (opBlit hs _ _ _ h stride).andThen fun _ _ ht => ih ht

theorem opBlitSplit (src dst w h stride : Nat) :
    cutsAfter s (s.opBlitSplit src dst w h stride) fun k => (s.withReset k).opBlitSplit src dst w h stride :=
  check hs <| ite (ok () hs rfl) <| check hs <| check hs <| check hs <| check hs <|
    blitChunks hs src dst w h stride (chunkOrder s.cfg src dst w)

end

end Parts

end Run.cutsAfter

/-! ## A host op, with and without a `HOST_RESET` on its way -/

/-- The end of a host op, with what it returns where it has gone on to its end and where it has failed (R133, R461). -/
def finishRun {α : Type} (value : α → HostResult) (error : Err → HostResult) (r : Run α) :
    Host.Outcome State Fault Refusal :=
  .next (match r with
    | .ok a t => { t with result := some (value a) }
    | .err e t => { t with result := some (error e) }
    | .cut t => t.hostReset)

theorem finishCode_eq_finishRun (r : Run Unit) : finishCode r = finishRun (fun _ => .code .ok) .code r := by
  cases r <;> rfl

theorem finishValue_eq_finishRun (r : Run Nat) : finishValue r = finishRun (.value .ok) (.value · 0) r := by
  cases r <;> rfl

/-- The host op, with no `HOST_RESET` on its way in `s`, ends in some state `u`; with one due after `k` frames it is cut
short after the first `k` of the frames it sends where there are more, else it ends as in `u`, with the reset that many
frames nearer (R501). -/
def State.opCutsAfter (s : State) (i : Instr) : Prop :=
  ∃ u, exec i s = .next u ∧
    (∀ k, k < u.sent.length → ∃ t : State, exec i (s.withReset k) = .next t.hostReset ∧ t.sent = u.sent.take k) ∧
    ∀ k, exec i (s.withReset (u.sent.length + k)) = .next (u.withReset k)

/-- A host op is cut short where its run is. -/
theorem State.opCutsAfter.of_run {α : Type} {s : State} {i : Instr} {r : Run α} {q : Nat → Run α}
    (h : r.cutsAfter s.beginOp q) (value : α → HostResult) (error : Err → HostResult)
    (hr : exec i s = finishRun value error r) (hq : ∀ k, exec i (s.withReset k) = finishRun value error (q k)) :
    s.opCutsAfter i := by
  obtain ⟨fs, hend, hcut, hpast⟩ := h
  have short (k : Nat) (hk : k < fs.length) :
      ∃ t : State, exec i (s.withReset k) = .next t.hostReset ∧ t.sent = fs.take k := by
    obtain ⟨t, hqk, ht⟩ := hcut k hk
    exact ⟨t, by rw [hq, hqk]; rfl, ht⟩
  cases r with
  | cut u => exact hend.elim
  | ok a u =>
    obtain rfl : u.sent = fs := hend.sent
    exact ⟨_, hr, short, fun k => (hq _).trans (congrArg _ (hpast k))⟩
  | err e u =>
    obtain rfl : u.sent = fs := hend.sent
    exact ⟨_, hr, short, fun k => (hq _).trans (congrArg _ (hpast k))⟩

/-- Every host op is cut short where its frames are more than the reset leaves (R501). -/
theorem State.opCutsAfter_of_host {s : State} (hs : s.hostResetIn = none) {i : Instr} (hi : i.isFrame = false) :
    s.opCutsAfter i := by
  have hs' : s.beginOp.hostResetIn = none := hs
  have code {r : Run Unit} {q : Nat → Run Unit} (h : r.cutsAfter s.beginOp q) (hr : exec i s = finishCode r)
      (hq : ∀ k, exec i (s.withReset k) = finishCode (q k)) : s.opCutsAfter i :=
    .of_run h _ _ (hr.trans (finishCode_eq_finishRun r)) fun k => (hq k).trans (finishCode_eq_finishRun (q k))
  have value {r : Run Nat} {q : Nat → Run Nat} (h : r.cutsAfter s.beginOp q) (hr : exec i s = finishValue r)
      (hq : ∀ k, exec i (s.withReset k) = finishValue (q k)) : s.opCutsAfter i :=
    .of_run h _ _ (hr.trans (finishValue_eq_finishRun r)) fun k => (hq k).trans (finishValue_eq_finishRun (q k))
  cases i with
  | init => exact code (.opInit hs') rfl fun _ => rfl
  | protolineAddress | pictureLineAddress | pixelAddress =>
    exact value (.check hs' (.check hs' (.ok _ hs' rfl))) rfl fun _ => rfl
  | writeIndexEntry line kind v => exact code (.opWriteIndexEntry hs' line kind v) rfl fun _ => rfl
  | fillProtoline n offset count v => exact code (.opFillProtoline hs' n offset count v) rfl fun _ => rfl
  | setColorBurst enable => exact code (.opSetColorBurst hs' enable) rfl fun _ => rfl
  | writePixel x y color => exact code (.opWritePixel hs' x y color) rfl fun _ => rfl
  | readPixel | readByte => exact value (.check hs' (.check hs' (.drainAndRead hs' _))) rfl fun _ => rfl
  | writeByte | writeWord => exact code (.check hs' (.check hs' (.drainAndSend hs' _))) rfl fun _ => rfl
  | blit src dst w h stride => exact code (.opBlit hs' src dst w h stride) rfl fun _ => rfl
  | blitSplit src dst w h stride => exact code (.opBlitSplit hs' src dst w h stride) rfl fun _ => rfl
  | waitIdle => exact code (.check hs' (.pollLoop hs' s.pollLimit)) rfl fun _ => rfl
  | readStatus =>
    exact .of_run (.ok () hs' rfl)
      (fun _ => .status s.block.firstErr s.block.clipCount s.block.movePending s.block.burstOn) .code rfl fun _ => rfl
  | _ => cases hi

/-- Settles O43: a reset between two host ops is taken from the inputs; one within an op cuts the op's run, and the
frames the op has sent until then are all that the chip layer has seen. -/
theorem hostResetCutsAnOperation : Obligations.HostResetCutsAnOperation := by
  refine ⟨fun s rest hr hin => step_of_settled (State.fetch_hostReset hr hin), fun i s u t k hi hk hu ht => ?_⟩
  obtain ⟨hchip, -, hfaults, -⟩ := exec_replay_sent hi ht
  obtain ⟨u', hu', hcut, hpast⟩ := State.opCutsAfter_of_host (s := { s with hostResetIn := none }) rfl hi
  obtain rfl := Host.Outcome.next.inj (hu.symm.trans hu')
  have hs : State.withReset { s with hostResetIn := none } k = s := by rw [State.withReset, ← hk]
  split
  · next hlt =>
    obtain ⟨x, hx, hsent⟩ := hcut k hlt
    rw [hs] at hx
    obtain rfl := Host.Outcome.next.inj (hx.symm.trans ht)
    exact ⟨hsent, hchip, hfaults, rfl, rfl, rfl⟩
  · next hge =>
    have hall := hpast (k - u.sent.length)
    rw [Nat.add_sub_of_le (Nat.not_lt.mp hge), hs] at hall
    exact Host.Outcome.next.inj (ht.symm.trans hall)

end Sys2Proof.Machine

/-! SUPPORT. Proof for the statement of spec/70_reset_and_hazards.md about the time before `INIT` (R503): a memory frame
sent while `MODE` is `⊥` records `F_MODE` with its address and does nothing else. -/

namespace Sys2Proof.Machine

/-! ## A memory frame before `INIT` -/

/-- The block before `INIT`, with no move running or pending and no `HOST_RESET` on its way (R503). -/
structure State.BeforeInit (s : State) : Prop where
  valid : s.cfg.valid = true
  mode : s.chip.mode = none
  busy : s.chip.busy = false
  select : s.chip.select = false
  pending : s.block.movePending = false
  noReset : s.hostResetIn = none

/-- From `s` on, `t` has only recorded an `F_MODE` of the command at the address (R194, R468). -/
structure State.HasModeFault (s : State) (c : Cmd) (a : Nat) (t : State) : Prop where
  chip : t.chip = s.chip
  block : t.block = s.block
  faults : t.faults = withFault s.faults ⟨.mode, s.cfg.opmap.code c, some a⟩

namespace State.BeforeInit

variable {s : State} (hs : s.BeforeInit)
include hs

theorem drain_eq : s.drain = .ok () s := if_neg (by simp [hs.pending])

/-- A memory frame, whose first check is the mode (R205), goes over and records `F_MODE` alone (R194, R468). -/
theorem emit_memoryFrame {i : Instr} {c : Cmd} {a n : Nat} (he : Laws.EncodesItsFormat.Statement i)
    (hw : i.wellFormed = true) (hi : i.isFrame = true)
    (hport : ∀ t : State, t.memoryFault (BitVec.ofNat 24 a) n = some .mode →
      t.portInstr i = (t.raise .mode (t.opcode c) (some a)).respondDraws (4 + n)) :
    ∃ t, s.emit i = .ok t.response t ∧ s.HasModeFault c a t := by
  have hsend := State.sendFrame_instr (Cfg.valid_injective hs.valid) he hw hi
  have hfault : (s.transfer (frameBytes s.cfg.opmap i)).memoryFault (BitVec.ofNat 24 a) n = some .mode := by
    rw [State.transfer_idle hs.busy]
    exact if_pos (by simp [hs.mode])
  rw [hport _ hfault, State.transfer_idle hs.busy] at hsend
  have hselect : { s.chip with select := false } = s.chip := by rw [← hs.select]
  refine ⟨_, State.emit_eq (by simp [hs.noReset]) i, ?_⟩
  rw [hsend]
  exact ⟨hselect, rfl, rfl⟩

/-- A `WRITE` frame after the drain, which has nothing to wait for (R428). -/
theorem drainAndSend_write {a : Nat} {data : List Byte} (ha : a < 131072) (hne : data ≠ []) :
    ∃ t, s.drainAndSend (.write (BitVec.ofNat 24 a) data) = .ok () t ∧ s.HasModeFault .write a t := by
  obtain ⟨t, hemit, ht⟩ := hs.emit_memoryFrame (c := .write) (a := a)
    (Laws.EncodesItsFormat.write (BitVec.ofNat 24 a) data) (by simpa [Instr.wellFormed] using hne) rfl fun t hf => by
      rw [State.portInstr, State.portWrite_of_fault hne hf, toNat_ofNat_address ha]
  exact ⟨t, by rw [State.drainAndSend, hs.drain_eq, Run.andThen_ok, hemit, Run.andThen_ok], ht⟩

/-- As `drainAndSend_write`, for the `READ` frame of one byte, whose data is a draw (R166, R193). -/
theorem drainAndRead {a : Nat} (ha : a < 131072) :
    ∃ t, s.drainAndRead a = .ok (t.response.getD 4 0).toNat t ∧ s.HasModeFault .read a t := by
  obtain ⟨t, hemit, ht⟩ := hs.emit_memoryFrame (c := .read) (a := a)
    (Laws.EncodesItsFormat.read (BitVec.ofNat 24 a) [0]) rfl rfl fun t hf => by
      rw [State.portInstr, State.portRead_of_fault (List.cons_ne_nil _ _) hf, toNat_ofNat_address ha]
  exact ⟨t, by rw [State.drainAndRead, hs.drain_eq, Run.andThen_ok, readByteFrame, hemit, Run.andThen_ok], ht⟩

end State.BeforeInit

/-! ## The host ops that send a memory frame -/

/-- A host op that stores and passes its checks is a drain and one `WRITE` frame at its address (R428). -/
theorem exec_write_of_storesAt {s : State} (hv : s.cfg.valid = true) {i : Instr} {a : Nat} (h : s.cfg.storesAt i a) :
    a < 131072 ∧ ∃ data, data ≠ [] ∧
      exec i s = finishCode (s.beginOp.drainAndSend (.write (BitVec.ofNat 24 a) data)) := by
  have hv' : s.beginOp.cfg.valid = true := hv
  rcases h with ⟨d, rfl, ha, hd⟩ | ⟨w, v, rfl, rfl, hw, hval⟩ | ⟨line, kind, value, rfl, rfl, hl, hentry⟩ |
    ⟨k, offset, count, v, rfl, rfl, hk, hc, hfit, hval⟩ | ⟨x, y, color, rfl, rfl, hx, hy, hc⟩
  · exact ⟨ha, _, (writeByteFrame_passes s.cfg d ha).1, congrArg finishCode (State.opWriteByte_accepted hv' ha hd)⟩
  · exact ⟨by omega, _, (writeWordFrame_passes s.cfg v hw).1,
      congrArg finishCode (State.opWriteWord_accepted hv' hw hval)⟩
  · have hsome : indexEntryBytes s.cfg kind value ≠ none := by
      rw [ne_eq, indexEntryBytes_eq_none_iff]
      omega
    obtain ⟨e, he⟩ := Option.ne_none_iff_exists'.mp hsome
    have hend := Cfg.entryAddr_fits hv hl
    exact ⟨by omega, _, (entryFrame_passes hv hl (length_of_indexEntryBytes he)).1,
      congrArg finishCode (State.opWriteIndexEntry_accepted hv' hl he)⟩
  · have hend := Cfg.protoline_words_fit hv hk hfit
    exact ⟨by omega, _, (fillsProtoline.passes hv ⟨k, offset, count, v, hk, hc, hfit, rfl⟩).1,
      congrArg finishCode (State.opFillProtoline_accepted hv' hk hval hfit hc)⟩
  · obtain ⟨-, -, hpix⟩ := Cfg.pix_fits hv hx hy
    exact ⟨hpix, _, (writeByteFrame_passes s.cfg color hpix).1,
      congrArg finishCode (State.opWritePixel_accepted hv' hx hy hc)⟩

theorem lt_of_readsAt {c : Cfg} (hv : c.valid = true) {i : Instr} {a : Nat} (h : c.readsAt i a) : a < 131072 := by
  rcases h with ⟨-, ha⟩ | ⟨x, y, -, rfl, hx, hy⟩
  · exact ha
  · obtain ⟨-, -, hpix⟩ := Cfg.pix_fits hv hx hy
    exact hpix

/-- Settles O28: each op is a drain with nothing to wait for and one memory frame. -/
theorem memoryOpsBeforeInitRecordModeFaults : Obligations.MemoryOpsBeforeInitRecordModeFaults := by
  intro s hv hmode hbusy hselect hpending hreset
  have hs : s.beginOp.BeforeInit := ⟨hv, hmode, hbusy, hselect, hpending, hreset⟩
  refine ⟨fun i a h => ?_, fun enable henable => ?_, fun i a h => ?_⟩
  · obtain ⟨ha, data, hne, hexec⟩ := exec_write_of_storesAt hv h
    obtain ⟨t, hrun, ht⟩ := hs.drainAndSend_write ha hne
    rw [hrun] at hexec
    exact ⟨_, hexec, rfl, ht.chip, ht.block, ht.faults⟩
  · obtain ⟨-, -, hwindow, hend, hactive, hline⟩ := Cfg.valid_pulses hv
    have hlen := Cfg.valid_lineLen hv
    have hpasses := burstFrame_passes hv (enable == 1)
    rw [burstFrame_eq] at hpasses
    obtain ⟨t, hrun, ht⟩ := hs.drainAndSend_write (a := 2 * s.cfg.burstStart) (by omega) hpasses.1
    have hop := State.opSetColorBurst_accepted (s := s.beginOp) hv henable
    rw [burstFrame_eq, State.beginOp_cfg, hrun, Run.andThen_ok] at hop
    exact ⟨_, congrArg finishCode hop, rfl, ht.chip, congrArg (fun b => { b with burstOn := enable == 1 }) ht.block,
      ht.faults⟩
  · obtain ⟨t, hrun, ht⟩ := hs.drainAndRead (lt_of_readsAt hv h)
    have hexec := exec_of_readsAt hv h
    rw [hrun] at hexec
    exact ⟨_, _, hexec, rfl, BitVec.isLt _, ht.chip, ht.block, ht.faults⟩

end Sys2Proof.Machine

/-! SUPPORT. Proofs for the statements of spec/30_encoding.md: decoding and encoding are inverse to each other
(R121–R133). One way, a format reads back the operands the encoder puts into it; the other way, the encoder puts out the
very bytes or arguments the format has read. -/

namespace Sys2Proof

/-! ## The bytes of a field (R86, R130) -/

theorem extractLsb'_append_last {w : Nat} (x : BitVec w) (b : Byte) : (x ++ b).extractLsb' 0 8 = b := by
  rw [BitVec.extractLsb'_append_eq_of_add_le le_rfl, BitVec.extractLsb'_eq_self]

theorem extractLsb'_append_before_last {w : Nat} (x : BitVec w) (b : Byte) (n : Nat) :
    (x ++ b).extractLsb' (n + 8) 8 = x.extractLsb' n 8 :=
  BitVec.extractLsb'_append_eq_of_le (Nat.le_add_left 8 n)

theorem bytes16_append (b1 b0 : Byte) : bytes16 (b1 ++ b0) = [b1, b0] := by
  rw [bytes16, hi, lo, extractLsb'_append_last, BitVec.extractLsb'_append_eq_left]

theorem addr24_append_last (x : Half) (b : Byte) : addr24 (x ++ b) = bytes16 x ++ [b] := by
  rw [addr24, extractLsb'_append_last, extractLsb'_append_before_last x b 0, extractLsb'_append_before_last x b 8]
  rfl

theorem bytes32_append_last (x : BitVec 24) (b : Byte) : bytes32 (x ++ b) = addr24 x ++ [b] := by
  rw [bytes32, extractLsb'_append_last, extractLsb'_append_before_last x b 0, extractLsb'_append_before_last x b 8,
    extractLsb'_append_before_last x b 16]
  rfl

theorem addr24_of_bytes (b2 b1 b0 : Byte) : addr24 (b2 ++ b1 ++ b0) = [b2, b1, b0] := by
  rw [addr24_append_last, bytes16_append]
  rfl

theorem bytes32_of_bytes (b3 b2 b1 b0 : Byte) : bytes32 (b3 ++ b2 ++ b1 ++ b0) = [b3, b2, b1, b0] := by
  rw [bytes32_append_last, addr24_of_bytes]
  rfl

/-! ## Decoding an encoding -/

/-- Every instruction is encoded in a format that reads its operands back. -/
theorem Laws.EncodesItsFormat.all : ∀ i : Instr, Statement i
  | .multiic d => multiic d
  | .wrsr d => wrsr d
  | .write a data => write a data
  | .read a filler => read a filler
  | .picstart v => picstart v
  | .picend v => picend v
  | .linelen v => linelen v
  | .vdctrl1 v => vdctrl1 v
  | .indexstart v => indexstart v
  | .vdctrl2 v => vdctrl2 v
  | .program v => program v
  | .bmc1 srcW dstW flags => bmc1 srcW dstW flags
  | .bmc2 stride width hm1 => bmc2 stride width hm1
  | .bmstart => bmstart
  | .bmstatus f1 f2 => bmstatus f1 f2
  | .init => init
  | .protolineAddress n => protolineAddress n
  | .pictureLineAddress n => pictureLineAddress n
  | .pixelAddress x y => pixelAddress x y
  | .writeIndexEntry line kind value => writeIndexEntry line kind value
  | .fillProtoline n offset count value => fillProtoline n offset count value
  | .setColorBurst enable => setColorBurst enable
  | .writePixel x y color => writePixel x y color
  | .readPixel x y => readPixel x y
  | .writeByte a d => writeByte a d
  | .writeWord w v => writeWord w v
  | .readByte a => readByte a
  | .blit src dst width height stride => blit src dst width height stride
  | .blitSplit src dst width height stride => blitSplit src dst width height stride
  | .waitIdle => waitIdle
  | .readStatus => readStatus

/-- Settles O51: the opcode map gives the command back, and the command's format its operands. -/
theorem decodeOfEncode : Obligations.DecodeOfEncode := by
  intro m i hm hw
  rcases Laws.EncodesItsFormat.all i hw with ⟨c, payload, hread, hencode⟩ | ⟨code, args, hread, hencode⟩
  · rw [hencode m, decode, decodeFrame_code hm, hread]
  · rw [hencode m, decode, decodeCall, hread]

/-- Settles O53: each word is its instruction's encoding. -/
theorem writtenOutWordsDecode : Obligations.WrittenOutWordsDecode := by
  have h (i : Instr) := decodeOfEncode OpMap.reference i (by decide)
  exact ⟨h (.multiic 0x0F) rfl, h (.picstart 491) rfl, h (.program 0x0346458C) rfl,
    h (.write 0x0046F0 [0, 0, 0x20]) rfl, h (.bmc1 0x2551 0x25F2 0x17) rfl, h (.bmc2 322 8 0) rfl,
    h (.blit 0x04A9C 0x04BDE 8 1 322) rfl⟩

/-! ## Encoding what was decoded -/

/-- A frame that decodes to an instruction is the opcode of a command and a payload that the command's format reads
(R190). -/
theorem decodeFrame_eq_instr {m : OpMap} {bytes : List Byte} {i : Instr} (h : decodeFrame m bytes = .instr i) :
    ∃ c payload, bytes = m.code c :: payload ∧ frameInstr c payload = some i := by
  unfold decodeFrame at h
  split at h
  · cases h
  · split at h
    · cases h
    · next c hc =>
      split at h
      · next j hj =>
        cases h
        exact ⟨c, _, by rw [OpMap.code_of_command hc], hj⟩
      · cases h

theorem decodeCall_eq_instr {code : Nat} {args : List Nat} {i : Instr} (h : decodeCall code args = .instr i) :
    callInstr code args = some i := by
  unfold decodeCall at h
  split at h
  · next j hj =>
    cases h
    exact hj
  · split at h <;> cases h

/-- The instruction a command's format reads from a payload is sent as that command's opcode and that payload
(R122–R129). -/
theorem encode_of_frameInstr (m : OpMap) {c : Cmd} {payload : List Byte} {i : Instr}
    (h : frameInstr c payload = some i) : encode m i = .frame (m.code c :: payload) ∧ i.wellFormed = true := by
  cases c with
  | multiic | wrsr => match payload, h with | [_], rfl => exact ⟨rfl, rfl⟩
  | bmstart => match payload, h with | [], rfl => exact ⟨rfl, rfl⟩
  | bmstatus => match payload, h with | [_, _], rfl => exact ⟨rfl, rfl⟩
  | picstart | picend | linelen | vdctrl1 | vdctrl2 =>
    match payload, h with
    | [v1, v0], rfl => exact ⟨by rw [encode, bytes16_append]; rfl, rfl⟩
  | indexstart | program =>
    match payload, h with
    | [v3, v2, v1, v0], rfl => exact ⟨by rw [encode, bytes32_of_bytes]; rfl, rfl⟩
  | bmc1 =>
    match payload, h with
    | [s1, s0, d1, d0, f], rfl => exact ⟨by rw [encode, bytes16_append, bytes16_append]; rfl, rfl⟩
  | bmc2 =>
    match payload, h with
    | [s1, s0, w, n], rfl => exact ⟨by rw [encode, bytes16_append]; rfl, rfl⟩
  | write | read =>
    match payload, h with
    | a2 :: a1 :: a0 :: x :: xs, rfl => exact ⟨by rw [encode, addr24_of_bytes]; rfl, rfl⟩

/-- The host op a call names is called by that code with those arguments (R133). -/
theorem encode_of_callInstr (m : OpMap) {code : Nat} {args : List Nat} {i : Instr}
    (h : callInstr code args = some i) : encode m i = .call code args ∧ i.wellFormed = true := by
  unfold callInstr at h
  split at h <;> cases h <;> exact ⟨rfl, rfl⟩

/-- Settles O52: a frame and a call each give back what their format has read. -/
theorem encodeOfDecode : Obligations.EncodeOfDecode := by
  intro m r i h
  cases r with
  | frame bytes =>
    obtain ⟨c, payload, rfl, hread⟩ := decodeFrame_eq_instr h
    exact encode_of_frameInstr m hread
  | call code args => exact encode_of_callInstr m (decodeCall_eq_instr h)

end Sys2Proof

/-! SUPPORT. Proofs for the statements of spec/41_chip_commands.md about the frames that pass their checks: the register
writes (R200–R204, R207–R212) with the faults of their own operands, the memory frames (R205, R206), `BMSTART` (R213) and
`BMSTATUS` (R214). -/

namespace Sys2Proof

/-! ## The bits of a value, as numbers -/

theorem extractLsb'_eq_ofNat {w : Nat} (v : BitVec w) (i n : Nat) :
    v.extractLsb' i n = BitVec.ofNat n (v.toNat / 2 ^ i) := by
  rw [BitVec.extractLsb', Nat.shiftRight_eq_div_pow]

theorem extractLsb'_bne_zero_iff {w : Nat} (v : BitVec w) (i n : Nat) :
    (v.extractLsb' i n != 0) = true ↔ v.toNat / 2 ^ i % 2 ^ n ≠ 0 := by
  rw [bne_iff_ne, extractLsb'_eq_ofNat, ne_eq, ← BitVec.toNat_inj, BitVec.toNat_ofNat]
  rfl

theorem getLsbD_eq_decide {w : Nat} (v : BitVec w) (i : Nat) : v.getLsbD i = decide (v.toNat / 2 ^ i % 2 = 1) :=
  Nat.testBit_eq_decide_div_mod_eq

end Sys2Proof

namespace Sys2Proof.Machine

/-! ## Reserved bits (R198) -/

theorem reservedOf12_iff (v : Half) : reservedOf12 v = true ↔ 4096 ≤ v.toNat := by
  have hv := v.isLt
  rw [reservedOf12, extractLsb'_bne_zero_iff]
  omega

theorem reservedOfVdctrl1_iff (v : Half) :
    reservedOfVdctrl1 v = true ↔ 16384 ≤ v.toNat ∨ v.toNat % 4096 ≠ 0 := by
  have hv := v.isLt
  rw [reservedOfVdctrl1, Bool.or_eq_true, extractLsb'_bne_zero_iff, extractLsb'_bne_zero_iff]
  omega

theorem reservedOfIndexstart_iff (v : Word) : reservedOfIndexstart v = true ↔ 131072 ≤ v.toNat := by
  have hv := v.isLt
  rw [reservedOfIndexstart, extractLsb'_bne_zero_iff]
  omega

theorem reservedOfWrsr_iff (d : Byte) : reservedOfWrsr d = true ↔ d.toNat % 64 ≠ 0 := by
  rw [reservedOfWrsr, extractLsb'_bne_zero_iff]
  omega

theorem reservedOfBmc1_iff (f : Byte) : reservedOfBmc1 f = true ↔ 32 ≤ f.toNat ∨ f.toNat / 8 % 2 = 1 := by
  have hf := f.isLt
  rw [reservedOfBmc1, Bool.or_eq_true, extractLsb'_bne_zero_iff, getLsbD_eq_decide, decide_eq_true_eq]
  omega

/-! ## Register frames -/

theorem State.registerFrame_of_none (s : State) (n : Nat) (c : Cmd) {fault : Option ChipFault} (h : fault = none)
    (w : Chip) : s.registerFrame n c fault w = (s.setChip w).respondDraws n := by
  rw [h]
  rfl

theorem State.registerFrame_of_some (s : State) (n : Nat) (c : Cmd) {fault : Option ChipFault} {f : ChipFault}
    (h : fault = some f) (w : Chip) :
    s.registerFrame n c fault w = (s.raise f (s.opcode c) none).respondDraws n := by
  rw [h]
  rfl

/-- A register frame whose reserved bits are 0 does its write (R198). -/
theorem State.registerFrame_unreserved (s : State) (n : Nat) (c : Cmd) {bad : Bool} (h : ¬ bad = true) (w : Chip) :
    s.registerFrame n c (reservedFault bad) w = (s.setChip w).respondDraws n :=
  s.registerFrame_of_none n c (if_neg h) w

/-- A register frame with a reserved bit at 1 raises `F_RESERVED` (R198). -/
theorem State.registerFrame_reserved (s : State) (n : Nat) (c : Cmd) {bad : Bool} (h : bad = true) (w : Chip) :
    s.registerFrame n c (reservedFault bad) w = (s.raise .reserved (s.opcode c) none).respondDraws n :=
  s.registerFrame_of_some n c (if_pos h) w

/-- Settles O1: each case is the first check of R200 or R201 that decides. -/
theorem modeCommandsWriteOrRefuse : Obligations.ModeCommandsWriteOrRefuse := by
  intro s d
  have hd := d.isLt
  have hreserved := reservedOfWrsr_iff d
  have hsequential : d.extractLsb' 6 2 = 1 ↔ d.toNat / 64 % 4 = 1 := by
    rw [extractLsb'_eq_ofNat, ← BitVec.toNat_inj, BitVec.toNat_ofNat]
    rfl
  refine ⟨fun hoff => ?_, fun hon => ?_, fun hseq => ?_, fun hlow => ?_, fun hlow hother => ?_⟩ <;>
    refine congrArg Host.Outcome.next ?_
  · exact s.registerFrame_of_none 2 .multiic (if_neg (not_not.mpr hoff)) _
  · exact s.registerFrame_of_some 2 .multiic (if_pos hon) _
  · refine s.registerFrame_of_none 2 .wrsr ?_ _
    rw [if_neg (mt hreserved.mp (by omega)), if_neg (not_not.mpr (hsequential.mpr (by omega)))]
  · refine s.registerFrame_of_some 2 .wrsr ?_ _
    rw [if_pos (hreserved.mpr hlow)]
  · refine s.registerFrame_of_some 2 .wrsr ?_ _
    rw [if_neg (mt hreserved.mp (by omega)), if_pos (mt hsequential.mp (by omega))]

/-- Settles O2: the three commands have one check and one field. -/
theorem pictureWindowAndLineLengthWrites : Obligations.PictureWindowAndLineLengthWrites := by
  intro s v
  have hfield : v.extractLsb' 0 12 = BitVec.ofNat 12 v.toNat := rfl
  refine ⟨fun hv => ?_, fun hv => ?_⟩
  · have hok : ¬ reservedOf12 v = true := mt (reservedOf12_iff v).mp (Nat.not_le.mpr hv)
    rw [← hfield]
    exact ⟨congrArg Host.Outcome.next (s.registerFrame_unreserved 3 .picstart hok _),
      congrArg Host.Outcome.next (s.registerFrame_unreserved 3 .picend hok _),
      congrArg Host.Outcome.next (s.registerFrame_unreserved 3 .linelen hok _)⟩
  · have hbad : reservedOf12 v = true := (reservedOf12_iff v).mpr hv
    exact ⟨congrArg Host.Outcome.next (s.registerFrame_reserved 3 .picstart hbad _),
      congrArg Host.Outcome.next (s.registerFrame_reserved 3 .picend hbad _),
      congrArg Host.Outcome.next (s.registerFrame_reserved 3 .linelen hbad _)⟩

/-- Settles O3: the flags are bits, and the number tells each (R41, R43). -/
theorem videoControlWrites : Obligations.VideoControlWrites := by
  intro s v
  have hv := v.isLt
  have hreserved := reservedOfVdctrl1_iff v
  refine ⟨fun h => ?_, fun h => ?_, ?_⟩
  · have hpllEn : v.getLsbD 12 = decide (v.toNat / 4096 % 2 = 1) := getLsbD_eq_decide v 12
    have hpllSel : v.getLsbD 13 = decide (v.toNat / 8192 % 2 = 1) := getLsbD_eq_decide v 13
    rw [← hpllEn, ← hpllSel]
    exact congrArg Host.Outcome.next (s.registerFrame_unreserved 3 .vdctrl1 (mt hreserved.mp (by omega)) _)
  · exact congrArg Host.Outcome.next (s.registerFrame_reserved 3 .vdctrl1 (hreserved.mpr h) _)
  · have henable : v.getLsbD 15 = decide (32768 ≤ v.toNat) := by
      rw [getLsbD_eq_decide, decide_eq_decide]
      omega
    have hpal : v.getLsbD 14 = decide (v.toNat / 16384 % 2 = 1) := getLsbD_eq_decide v 14
    have hcount : v.extractLsb' 0 10 = BitVec.ofNat 10 v.toNat := rfl
    have hclks : v.extractLsb' 10 4 = BitVec.ofNat 4 (v.toNat / 1024) := extractLsb'_eq_ofNat v 10 4
    rw [← henable, ← hpal, ← hcount, ← hclks]
    exact congrArg Host.Outcome.next (s.registerFrame_of_none 3 .vdctrl2 rfl _)

/-- Settles O4: the base is the value's low 17 bits (R42), and no bit of `PROGRAM` is reserved. -/
theorem indexBaseAndProgramWrites : Obligations.IndexBaseAndProgramWrites := by
  intro s v
  have hreserved := reservedOfIndexstart_iff v
  refine ⟨fun hv => ?_, fun hv => ?_, ?_⟩
  · have hbase : v.extractLsb' 0 17 = BitVec.ofNat 17 v.toNat := rfl
    rw [← hbase]
    exact congrArg Host.Outcome.next (s.registerFrame_unreserved 5 .indexstart (mt hreserved.mp (Nat.not_le.mpr hv)) _)
  · exact congrArg Host.Outcome.next (s.registerFrame_reserved 5 .indexstart (hreserved.mpr hv) _)
  · exact congrArg Host.Outcome.next (s.registerFrame_of_none 5 .program rfl _)

/-- Settles O5: the four flags are bits of the flag byte. -/
theorem moveParameterWrites : Obligations.MoveParameterWrites := by
  intro s srcW dstW stride f width hm1
  have hreserved := reservedOfBmc1_iff f
  refine ⟨fun h => ?_, fun h => ?_, ?_⟩
  · have hdir : f.getLsbD 0 = decide (f.toNat % 2 = 1) := (getLsbD_eq_decide f 0).trans (by rw [pow_zero, Nat.div_one])
    have hdstOdd : f.getLsbD 1 = decide (f.toNat / 2 % 2 = 1) := getLsbD_eq_decide f 1
    have hsrcOdd : f.getLsbD 2 = decide (f.toNat / 4 % 2 = 1) := getLsbD_eq_decide f 2
    have hlpf : f.getLsbD 4 = decide (f.toNat / 16 % 2 = 1) := getLsbD_eq_decide f 4
    rw [← hdir, ← hdstOdd, ← hsrcOdd, ← hlpf]
    exact congrArg Host.Outcome.next (s.registerFrame_unreserved 6 .bmc1 (mt hreserved.mp (by omega)) _)
  · exact congrArg Host.Outcome.next (s.registerFrame_reserved 6 .bmc1 (hreserved.mpr h) _)
  · exact congrArg Host.Outcome.next (s.registerFrame_of_none 5 .bmc2 rfl _)

/-! ## Memory frames that pass their checks -/

theorem State.portWrite_of_noFault {s : State} {a : BitVec 24} {data : List Byte} (hne : data ≠ [])
    (h : s.memoryFault a data.length = none) :
    s.portWrite a data = (s.setMem (Memory.write s.chip.mem a.toNat data)).respondDraws (4 + data.length) := by
  simp [State.portWrite, hne, h]

/-- Settles O6: a read after the store is `Memory.read_write`. -/
theorem writeFrameStoresItsBytes : Obligations.WriteFrameStoresItsBytes := by
  intro s a data hmode hbusy hne hfit
  have hnone := (s.memoryFault_eq_none a (List.length_pos_iff.mpr hne)).mpr ⟨hmode, hbusy, hfit⟩
  exact ⟨_, congrArg Host.Outcome.next (State.portWrite_of_noFault hne hnone),
    fun x => Memory.read_write s.chip.mem a.toNat data x, rfl⟩

theorem State.portRead_of_noFault {s : State} {a : BitVec 24} {filler : List Byte} (hne : filler ≠ [])
    (h : s.memoryFault a filler.length = none) :
    s.portRead a filler =
      ((Memory.firstUnwritten s.chip.mem a.toNat filler.length).elim s fun u =>
        s.raise .unwrittenRead (s.opcode .read) (some u)).respond (s.readResponse a.toNat filler.length) := by
  simp only [State.portRead, List.isEmpty_iff, hne, if_false, h]
  cases Memory.firstUnwritten s.chip.mem a.toNat filler.length <;> rfl

/-- The answer to a `READ`: four draws, then a byte for each filler byte (R193, R206). -/
theorem State.readResponse_length (s : State) (a k : Nat) : (s.readResponse a k).length = 4 + k := by
  simp [State.readResponse]

theorem State.readResponse_getElem? (s : State) (a : Nat) {i k : Nat} {b : Byte} (hi : i < k)
    (hb : Memory.read s.chip.mem (a + i) = some b) : (s.readResponse a k)[4 + i]? = some b := by
  rw [State.readResponse, List.getElem?_append_right (by simp), State.drawBytes_length, Nat.add_sub_cancel_left]
  simp [hi, hb]

theorem Memory.firstUnwritten_eq_none {m : Memory} {a k : Nat} (h : ∀ i, i < k → (Memory.read m (a + i)).isSome) :
    Memory.firstUnwritten m a k = none := by
  simpa [Memory.firstUnwritten, List.find?_eq_none, Option.isSome_iff_ne_none] using h

theorem Memory.firstUnwritten_eq_some {m : Memory} {a k u : Nat} (hu : u < k) (hnone : Memory.read m (a + u) = none)
    (hbefore : ∀ i, i < u → (Memory.read m (a + i)).isSome) : Memory.firstUnwritten m a k = some (a + u) := by
  have hfind : (List.range k).find? (fun i => (Memory.read m (a + i)).isNone) = some u := by
    rw [List.find?_range_eq_some]
    exact ⟨by simp [hnone], by simpa using hu, fun i hi => by simpa [Option.isSome_iff_ne_none] using hbefore i hi⟩
  rw [Memory.firstUnwritten, hfind, Option.map_some]

/-- Settles O7: the response is the same whether or not a byte is `⊥`; which byte is the first decides the record. -/
theorem readFrameAnswersTheBytes : Obligations.ReadFrameAnswersTheBytes := by
  intro s a filler hmode hbusy hne hfit
  have hnone := (s.memoryFault_eq_none a (List.length_pos_iff.mpr hne)).mpr ⟨hmode, hbusy, hfit⟩
  refine ⟨_, congrArg Host.Outcome.next (State.portRead_of_noFault hne hnone), s.readResponse_length _ _,
    fun i b hi hb => s.readResponse_getElem? a.toNat hi hb, fun hall => ?_, fun u hu hread hbefore => ?_⟩
  · rw [Memory.firstUnwritten_eq_none hall]
    rfl
  · rw [Memory.firstUnwritten_eq_some hu hread hbefore]
    rfl

/-! ## Block moves -/

/-- Settles O12: `overlap1_iff_overlapsByOne`, on which the checks of `BMSTART` rest. -/
theorem overlapTestIsTheIntegerFormula : Obligations.OverlapTestIsTheIntegerFormula := overlap1_iff_overlapsByOne

/-- The latched registers, in the numbers of R213. -/
theorem latch_eq (p : Bmc1) (q : Bmc2) {src dst h : Nat} (hsrc : src = 2 * p.srcW.toNat + p.srcOdd.toNat)
    (hdst : dst = 2 * p.dstW.toNat + p.dstOdd.toNat) (hh : h = q.hm1.toNat + 1) :
    latch p q =
      { src := BitVec.ofNat 17 src, dst := BitVec.ofNat 17 dst, dir := p.dir, stride := q.stride, width := q.width,
        height := BitVec.ofNat 9 h } := by
  rw [hsrc, hdst, hh, ← p.src_toNat, ← p.dst_toNat, ← latch_height p q]
  simp only [BitVec.ofNat_toNat, BitVec.setWidth_eq]
  rfl

theorem State.portBmstart_of_ok {s : State} {v : ActiveMove} (h : s.startCheck = .ok v) :
    s.portBmstart = (s.startMove v).respondDraws 1 := by
  rw [State.portBmstart, h]

/-- Settles O9: with every check of R213 passed, the move started is the latched one. -/
theorem moveStartLatchesParameters : Obligations.MoveStartLatchesParameters := by
  intro s p q src dst w h stride hbusy hp hq hsrc hdst hw hh hstride hpos hinside hmin hmax hoverlap
  have hreach : ¬ moveOutside p.dir src dst (rectSpan w h stride) = true :=
    fun hout => (moveOutside_iff _ _ _ _).mp hout hinside
  have hreliable : ¬ moveUnreliable s.cfg src dst w h stride = true := by
    rw [moveUnreliable_iff]
    rintro (hlow | hhigh | hone)
    · exact Nat.not_lt.mpr hmin hlow
    · exact Nat.not_lt.mpr hmax hhigh
    · exact hoverlap hone
  have hok : s.startCheck = .ok (latch p q) := by
    rw [State.startCheck_shadow (by simp [hbusy]) hp hq hsrc hdst hw hh hstride, if_neg (Nat.ne_of_gt hpos),
      if_neg hreach, if_neg hreliable]
  refine ⟨_, congrArg Host.Outcome.next (State.portBmstart_of_ok hok), ?_, rfl, rfl, rfl, State.drawBytes_length _ 1⟩
  rw [State.respondDraws_chip, State.startMove_chip, latch_eq p q hsrc hdst hh]

/-- Settles O11: the response holds the status word, and only the count of polls changes besides (R410). -/
theorem statusFrameReportsBusy : Obligations.StatusFrameReportsBusy := by
  intro s f1 f2
  have hbusy : busyOf s.portBmstatus.response = s.chip.busy := busyOf_status _ _ _ _
  exact ⟨s.portBmstatus, rfl, rfl, congrArg some hbusy, rfl, rfl, rfl, rfl⟩

/-! ## The invariant at reset -/

/-- Settles O45: nothing is stored, set, running or recorded at reset. -/
theorem invariantHoldsAtReset : Obligations.InvariantHoldsAtReset := fun _ =>
  ⟨Memory.wf_nil, rfl, .inl rfl, .inl rfl, nofun, nofun, List.nodup_nil⟩

end Sys2Proof.Machine
